-- ==== Sys2Proof/Word.lean ====
section
/-! DEFINITION. The word types of HUFF-1: every register is 32 bits unless its rule says otherwise (00_scope R8), a symbol
and an operand are unsigned bytes (R9, 30_encoding R101), a node index is 9 bits (10_state R41), and a bit string is a
finite sequence of bits, first bit first (R10). All values are unsigned; nothing is ever sign-extended (R9). -/

namespace Sys2Proof

/-- A 32-bit register, bus word or command word (R8, R100). -/
abbrev Word := BitVec 32

/-- A byte: a symbol of the alphabet (NSYMS = 256, R6), a command's operand, or a byte of a stream. -/
abbrev Byte := BitVec 8

/-- An index into the 511-entry node store (R41). -/
abbrev NodeIdx := BitVec 9

/-- A bit string of R10, its first bit at the head of the list. -/
abbrev Bits := List Bool

end Sys2Proof
end

