-- ==== Sys2Proof/Config.lean ====
section
/-! DEFINITION. The implementation parameters of HUFF-1 (00_scope R6, 20_memory R80) and the values the spec leaves free: what a read of an
engine-owned register returns while BUSY = 1 (20_memory R87), and what the node store holds at index ≥ NODECNT and the heap
after a BUILD or a reset (10_state R41, R42, R61, 93). -/

namespace Sys2Proof

/-- The two OPEN parameters (R6, R80, 92 D3 and D18), which the model takes as arguments. -/
structure Config where
  /-- OUTQ_DEPTH, the capacity of the output FIFO in bytes: 32..65535 (R6, D18). -/
  outqDepth : Nat
  /-- BASE, the platform address of the register window's offset 0 (R80, D3). No rule reads it, and no step does. The spec gives
  neither a width of platform addresses nor an alignment of BASE, so it is any number (log 15). -/
  base : Nat
  deriving DecidableEq, Repr

/-- The reference value of R6, OUTQ_DEPTH = 64. DESIGN CHOICE (log 3): the spec gives every depth in 32..65535. BASE has no
reference value, and 0 stands for it here: DESIGN CHOICE (log 15). -/
def Config.reference : Config := { outqDepth := 64, base := 0 }

/-- The smallest OUTQ_DEPTH of R6. -/
def Config.minDepth : Nat := 32

/-- The largest OUTQ_DEPTH of R6. -/
def Config.maxDepth : Nat := 65535

/-- ID_VALUE, ASCII "HUF1" (R6, R24). -/
def Config.idValue : Word := 0x48554631#32

/-- WBITS, the width of every frequency, weight and count register (R6). -/
def Config.wbits : BitVec 8 := 32#8

/-- MAXLEN_HW, the longest code the code table stores (R6). -/
def Config.maxlenHw : BitVec 8 := 255#8

/-- TOTAL_MAX = 2^32 - 1, the largest TOTAL (R6), and the largest PKSYMS (R191). -/
def Config.countMax : Word := 0xFFFFFFFF#32

/-- FREE VALUE (R87, log 4): what the n-th read of an engine-owned register while BUSY = 1 returns. It has no body, so that
nothing can evaluate it and no law relates two draws. -/
opaque Config.busyRead : Nat → Word

/-- FREE VALUE (R41, R160, R261, 93 "NODE[i] for i ≥ NODECNT"; log 7): the fields w, leaf, sym, left, right that node i holds,
when the BUILD or reset that drew number n leaves it at an index ≥ NODECNT. No bus read shows them (R46). -/
opaque Config.hiddenNode : Nat → Nat → Word × Bool × Byte × NodeIdx × NodeIdx

/-- FREE VALUE (R42, R261, 93 "HEAP contents"; log 6): what the heap array holds after the BUILD or reset that drew number n.
No rule reads it. -/
opaque Config.heapContents : Nat → List NodeIdx

end Sys2Proof
end

