-- ==== Sys2Proof/Machine/HostSyntax.lean ====
section
/-! DEFINITION. What the agents around the engine can do, as data: bus transactions and their responses (20_memory R81),
host operations (30_encoding R109, R110), whose turn it is (00_scope R7), and the abstract syntax of an assembler line
(30_encoding R108). -/

namespace Sys2Proof.Machine

/-- The 13 mnemonics of R103. -/
inductive Mnemonic where
  | nop | srst | errclr | fclr | fadd | build | ctclr | pkstart | pkb | pkend | darm | din | dend
  deriving DecidableEq, Repr

/-- The two operand forms of R101. -/
inductive Form where
  /-- C0: no operand, IMM8 must be 0. -/
  | c0
  /-- C8: IMM8 is an unsigned byte operand. -/
  | c8
  deriving DecidableEq, Repr

/-- One host transaction of R81. `narrow` marks a read the interconnect marks as narrower than a word (R82, log 17). -/
inductive BusTx where
  | read (addr : BitVec 12) (narrow : Bool)
  | write (addr : BitVec 12) (wdata : Word) (strb : BitVec 4)
  deriving DecidableEq, Repr

/-- The response of R81: a read answers data and err, a write err alone. -/
inductive Response where
  | read (rdata : Word) (err : Bool)
  | write (err : Bool)
  deriving DecidableEq, Repr

/-- A value an RD operation asserted, with the value its read returned (R109). -/
structure Assertion where
  addr : BitVec 12
  asserted : Word
  got : Word
  deriving DecidableEq, Repr

/-- One operation of a host script (R109, R110). -/
inductive HostOp where
  /-- One transaction: WR, RD, or any other access R81 allows. -/
  | bus (tx : BusTx)
  /-- RD <reg> = v: a read that asserts the value read is v (R109). -/
  | readAsserting (addr : BitVec 12) (v : Word)
  /-- WAIT: poll until the engine is idle and OUTQ is empty, draining OUTQ (R110). -/
  | wait
  /-- DRAIN: pop every byte now in OUTQ into HOSTBUF (R110). -/
  | drain
  /-- The DATA_OUT read in the loops of WAIT and DRAIN, whose bits [7:0] go to HOSTBUF (R110). -/
  | take
  deriving DecidableEq, Repr

/-- Which agent moves (R7, R261). -/
inductive Turn where
  | host
  | engine
  | rst
  deriving DecidableEq, Repr

/-- The `<byte>` literals of R108. -/
inductive ByteLit where
  | hex (n : Nat)
  | dec (n : Nat)
  | chr (c : Char)
  deriving DecidableEq, Repr

/-- One command line of R108 (its abstract syntax, log 21). -/
inductive AsmLine where
  /-- `<MNEMONIC>`. -/
  | plain (m : Mnemonic)
  /-- `<MNEMONIC> <byte>`. -/
  | withByte (m : Mnemonic) (b : ByteLit)
  /-- `CMDW <word>`: a raw word. -/
  | cmdw (w : Word)
  deriving DecidableEq, Repr

end Sys2Proof.Machine
end

