-- ==== Sys2Proof/Syntax.lean ====
section
/-! DEFINITION. The command set of HUFF-1: one constructor per row of 30_encoding R103 (spec/opcode_table.json), each with
the operand its form gives it: none for C0, an unsigned byte for C8 (R101). -/

namespace Sys2Proof

/-- The 13 commands of R103. -/
inductive Instr where
  /-- NOP (R126). -/
  | nop
  /-- SRST, soft reset (R127). -/
  | srst
  /-- ERRCLR, clear the error latch and BERR (R128). -/
  | errclr
  /-- FCLR, clear the frequency table (R141). -/
  | fclr
  /-- FADD s, count one occurrence of symbol s (R142). -/
  | fadd (s : Byte)
  /-- BUILD, build the Huffman tree and derive the code table (R150). -/
  | build
  /-- CTCLR, clear the code table (R175). -/
  | ctclr
  /-- PKSTART, open a packing session (R190). -/
  | pkstart
  /-- PKB s, append the code of symbol s (R191). -/
  | pkb (s : Byte)
  /-- PKEND, flush the final partial byte and close the session (R192). -/
  | pkend
  /-- DARM, arm a decoding session (R212). -/
  | darm
  /-- DIN b, feed one packed byte (R214). -/
  | din (b : Byte)
  /-- DEND, close the decoding session (R215). -/
  | dend
  deriving DecidableEq, Repr

end Sys2Proof
end

