-- ==== Sys2Proof/Machine/Operands.lean ====
section
/-! DEFINITION. The fields of a command word (30_encoding R100), the operand forms (R101), which opcodes are assigned (R105),
how many free OUTQ bytes a word waits for (40_control R122), and the byte literals of an assembler line (R108). -/

namespace Sys2Proof

open Sys2Proof.Machine

/-- OP, bits [31:24] of a command word (R100). -/
def wordOp (w : Word) : Byte := w.extractLsb' 24 8

/-- RSV, bits [23:8] of a command word (R100). -/
def wordRsv (w : Word) : BitVec 16 := w.extractLsb' 8 16

/-- IMM8, bits [7:0] of a command word (R100). -/
def wordImm (w : Word) : Byte := w.extractLsb' 0 8

/-- zext_32(IMM8): a C8 operand used as a number is zero-extended, never sign-extended, scaled or shifted (R101). -/
def operandNumber (imm : Byte) : Word := imm.zeroExtend 32

/-- The assigned opcodes: the complement of the ranges 0x03..0x0F, 0x12..0x1F, 0x22..0x2F, 0x33..0x3F, 0x43..0xFF of
R105 (a). -/
def opAssigned (op : Byte) : Bool :=
  let n := op.toNat
  !((0x03 ≤ n && n ≤ 0x0F) || (0x12 ≤ n && n ≤ 0x1F) || (0x22 ≤ n && n ≤ 0x2F) || (0x33 ≤ n && n ≤ 0x3F) || 0x43 ≤ n)

/-- The opcodes of the C8 commands FADD, PKB and DIN (R101). -/
def opTakesByte (op : Byte) : Bool := op == 0x11#8 || op == 0x31#8 || op == 0x41#8

/-- NEED(op) of R122: 32 for PKB, 8 for DIN, 1 for PKEND, 0 for every other OP, undefined ones included. -/
def need (op : Byte) : Nat :=
  if op = 0x31#8 then 32 else if op = 0x41#8 then 8 else if op = 0x32#8 then 1 else 0

/-- The mnemonic of a command (R103). -/
def Instr.mnemonic : Instr → Mnemonic
  | .nop => .nop
  | .srst => .srst
  | .errclr => .errclr
  | .fclr => .fclr
  | .fadd _ => .fadd
  | .build => .build
  | .ctclr => .ctclr
  | .pkstart => .pkstart
  | .pkb _ => .pkb
  | .pkend => .pkend
  | .darm => .darm
  | .din _ => .din
  | .dend => .dend

/-- The operand byte of a command, 0 for a command without one (R101). -/
def Instr.imm : Instr → Byte
  | .fadd s => s
  | .pkb s => s
  | .din b => b
  | .nop | .srst | .errclr | .fclr | .build | .ctclr | .pkstart | .pkend | .darm | .dend => 0#8

/-- The operand form of a mnemonic (R103). -/
def formOf : Mnemonic → Form
  | .fadd | .pkb | .din => .c8
  | .nop | .srst | .errclr | .fclr | .build | .ctclr | .pkstart | .pkend | .darm | .dend => .c0

/-- The value of a `<byte>` literal: 0xNN and 0..255 are bytes, a character is its ASCII code (R108). -/
def byteLitValue : ByteLit → Option Byte
  | .hex n => if n < 256 then some (BitVec.ofNat 8 n) else none
  | .dec n => if n < 256 then some (BitVec.ofNat 8 n) else none
  | .chr c => if c.toNat < 128 then some (BitVec.ofNat 8 c.toNat) else none

end Sys2Proof
end

