-- ==== Sys2Proof/WellFormed.lean ====
section
/-! DEFINITION. What is well formed: a command word by the three clauses of 30_encoding R105, a bus transaction by 20_memory
R82, an assembler line by 30_encoding R108, the parameter by 00_scope R6, and an instruction by its form (R101). -/

namespace Sys2Proof

open Sys2Proof.Machine

/-- A command word is legal iff none of R105 (a), (b), (c) holds. -/
def wordWellFormed (w : Word) : Bool :=
  opAssigned (wordOp w) && wordRsv w == 0#16 && (opTakesByte (wordOp w) || wordImm w == 0#8)

/-- A C0 command has a zero operand byte (R101). The types of Syntax.lean leave no ill-formed instruction: an operand is a
byte, and every byte is one. -/
def Instr.wellFormed (i : Instr) : Bool := formOf i.mnemonic == .c8 || i.imm == 0#8

/-- R6: OUTQ_DEPTH is an integer in 32..65535. BASE is any number (R80). -/
def Config.wellFormed (c : Config) : Bool := Config.minDepth ≤ c.outqDepth && c.outqDepth ≤ Config.maxDepth

/-- R82: word-aligned, a full word for a read, all four byte enables for a write. -/
def busTxWellFormed : BusTx → Bool
  | .read addr narrow => addr.extractLsb' 0 2 == 0#2 && !narrow
  | .write addr _ strb => addr.extractLsb' 0 2 == 0#2 && strb == 0b1111#4

/-- R108: a C0 mnemonic stands alone, a C8 mnemonic with a byte, CMDW with any word. -/
def asmWellFormed : AsmLine → Bool
  | .plain m => formOf m == .c0
  | .withByte m b => formOf m == .c8 && (byteLitValue b).isSome
  | .cmdw _ => true

end Sys2Proof
end

