-- ==== Sys2Proof/Decode.lean ====
section
/-! DEFINITION. Decoding as 30_encoding R104 gives it, over the rows of R103 (match and mask), total on every 32-bit word and
rejecting by the name of R105's clause; then the encoder, written from the field layout of R100. A command is a bus word
(R100), not bytes in a memory (log 10). -/

namespace Sys2Proof

open Sys2Proof.Machine

/-- Why R105 makes a word illegal. -/
inductive Illegal where
  /-- R105 (a): OP is not in R103. -/
  | undefinedOp
  /-- R105 (b): OP is in R103 and RSV ≠ 0. -/
  | reservedNotZero
  /-- R105 (c): OP of a C0 command, RSV = 0 and IMM8 ≠ 0. -/
  | operandNotZero
  deriving DecidableEq, Repr

/-- One row of R103: the bits a word must have under the mask, and the command it stands for. -/
structure Row where
  mnemonic : Mnemonic
  pattern : Word
  mask : Word
  deriving DecidableEq, Repr

/-- R103, row by row. -/
def opcodeTable : List Row :=
  [ ⟨.nop, 0x00000000#32, 0xFFFFFFFF#32⟩, ⟨.srst, 0x01000000#32, 0xFFFFFFFF#32⟩, ⟨.errclr, 0x02000000#32, 0xFFFFFFFF#32⟩,
    ⟨.fclr, 0x10000000#32, 0xFFFFFFFF#32⟩, ⟨.fadd, 0x11000000#32, 0xFFFFFF00#32⟩, ⟨.build, 0x20000000#32, 0xFFFFFFFF#32⟩,
    ⟨.ctclr, 0x21000000#32, 0xFFFFFFFF#32⟩, ⟨.pkstart, 0x30000000#32, 0xFFFFFFFF#32⟩, ⟨.pkb, 0x31000000#32, 0xFFFFFF00#32⟩,
    ⟨.pkend, 0x32000000#32, 0xFFFFFFFF#32⟩, ⟨.darm, 0x40000000#32, 0xFFFFFFFF#32⟩, ⟨.din, 0x41000000#32, 0xFFFFFF00#32⟩,
    ⟨.dend, 0x42000000#32, 0xFFFFFFFF#32⟩ ]

/-- R104: (w AND r.mask) = r.match. -/
def rowMatches (w : Word) (r : Row) : Bool := w &&& r.mask == r.pattern

/-- The command of a mnemonic with IMM8 as its operand where its form has one (R101, R104). -/
def instrOf (m : Mnemonic) (imm : Byte) : Instr :=
  match m with
  | .nop => .nop
  | .srst => .srst
  | .errclr => .errclr
  | .fclr => .fclr
  | .fadd => .fadd imm
  | .build => .build
  | .ctclr => .ctclr
  | .pkstart => .pkstart
  | .pkb => .pkb imm
  | .pkend => .pkend
  | .darm => .darm
  | .din => .din imm
  | .dend => .dend

/-- The clause of R105 that makes an unmatched word illegal, (a) before (b) before (c). -/
def illegalClause (w : Word) : Illegal :=
  if !opAssigned (wordOp w) then .undefinedOp
  else if wordRsv w != 0#16 then .reservedNotZero
  else .operandNotZero

/-- R104, Decode(w): the first row that matches, with IMM8 = w[7:0]; otherwise ILLEGAL, named. -/
def decode (w : Word) : Except Illegal Instr :=
  match opcodeTable.find? (rowMatches w) with
  | some r => .ok (instrOf r.mnemonic (wordImm w))
  | none => .error (illegalClause w)

/-- The OP value of a mnemonic (R103), grouped by component (R102). -/
def opcodeOf : Mnemonic → Byte
  | .nop => 0x00#8
  | .srst => 0x01#8
  | .errclr => 0x02#8
  | .fclr => 0x10#8
  | .fadd => 0x11#8
  | .build => 0x20#8
  | .ctclr => 0x21#8
  | .pkstart => 0x30#8
  | .pkb => 0x31#8
  | .pkend => 0x32#8
  | .darm => 0x40#8
  | .din => 0x41#8
  | .dend => 0x42#8

/-- Format C of R100: OP [31:24], RSV [23:8] = 0, IMM8 [7:0]. -/
def encode (i : Instr) : Word := opcodeOf i.mnemonic ++ 0#16 ++ i.imm

/-- The host's question: the command the decoder reads from a table word of `nbits` bits (every row has 32, one word). -/
def decodeTableWord (nbits w : Nat) : Option Instr :=
  match decode (BitVec.ofNat 32 (w % 2 ^ nbits)) with
  | .ok i => some i
  | .error _ => none

end Sys2Proof
end

