-- ==== Sys2Proof/Machine/Bits.lean ====
section
/-! DEFINITION. Bit strings and the numbers and bytes that store them: num(s) of 00_scope R10, the stream's bit order of
20_memory R95 (bit 7 of a byte first), and cutting a bit string into bytes (44_packer R191, R193). -/

namespace Sys2Proof.Machine

/-- num(s) of R10: the first bit is the most significant. -/
def num (bs : Bits) : Nat := bs.foldl (fun n b => 2 * n + b.toNat) 0

/-- The bit string of length n that the number v[n-1:0] stores, first bit = bit n-1 (R10, R97). Higher bits of v take no
part (R174). -/
def bitsOf : Nat → Nat → Bits
  | 0, _ => []
  | n + 1, v => v.testBit n :: bitsOf n v

/-- The bits of a stream byte, bit 7 first (R95). -/
def bitsOfByte (b : Byte) : Bits := bitsOf 8 b.toNat

/-- The byte whose bit 7 is the first of eight bits (R95). -/
def byteOfBits (bs : Bits) : Byte := BitVec.ofNat 8 (num bs)

/-- The loop of R191: while eight bits remain, the first eight become a byte. Answers the bytes in order and the bits
left, fewer than eight. -/
def packBytes : Bits → List Byte × Bits
  | b7 :: b6 :: b5 :: b4 :: b3 :: b2 :: b1 :: b0 :: rest =>
    let r := packBytes rest
    (byteOfBits [b7, b6, b5, b4, b3, b2, b1, b0] :: r.1, r.2)
  | bs => ([], bs)

/-- p ⊑ q of R12: p is a prefix of q. -/
def isPrefix (p q : Bits) : Bool := p.isPrefixOf q

/-- p ⊏ q of R12: p is a proper prefix of q. -/
def isProperPrefix (p q : Bits) : Bool := p.isPrefixOf q && p.length < q.length

/-- The symbols 0, 1, ..., 255 in ascending order. -/
def allSymbols : List Byte := (List.range 256).map (BitVec.ofNat 8)

end Sys2Proof.Machine
end

