-- ==== Sys2Proof/Machine/State.lean ====
section
/-! DEFINITION. The state of HUFF-1 as plain data, group by group as 10_state R20 lists it, its reset values (R61), and the
reasons a step can stop. -/

namespace Sys2Proof.Machine

/-- PHASE, the engine's mode (R27). The encoding 3 is never produced, so it has no constructor. -/
inductive Phase where
  | idle
  | pack
  | decode
  deriving DecidableEq, Repr

/-- The error latch (R29 to R31, R240). -/
structure ErrLatch where
  /-- STATUS.ERR. -/
  err : Bool
  /-- ERRCODE[7:0]. -/
  code : Byte
  /-- ERRINFO. -/
  info : Word
  /-- ERRCMD. -/
  cmd : Word
  deriving DecidableEq, Repr

/-- One entry of the node store (R41). -/
structure Node where
  w : Word
  leaf : Bool
  /-- Meaningful only when leaf = 1. -/
  sym : Byte
  /-- Meaningful only when leaf = 0. -/
  left : NodeIdx
  /-- Meaningful only when leaf = 0. -/
  right : NodeIdx
  deriving DecidableEq, Repr

/-- The tree group of R20: the node store, ROOT and NODECNT (R41, R43, R44). -/
structure Tree where
  node : Vector Node 511
  root : NodeIdx
  /-- NODECNT. -/
  count : BitVec 9
  deriving DecidableEq, Repr

/-- One entry of the code table (R48): the code is code[len-1:0], its first bit at bit len-1; len = 0 is "no entry". -/
structure CtEntry where
  len : Byte
  code : BitVec 256
  deriving DecidableEq, Repr

/-- The packer registers (R52 to R55). -/
structure Packer where
  accn : BitVec 3
  accv : BitVec 7
  /-- PKSYMS. -/
  syms : Word
  /-- PKBITS. -/
  bits : BitVec 64
  /-- PKLAST. -/
  last : BitVec 4
  deriving DecidableEq, Repr

/-- The decoder registers (R56 to R58). -/
structure Decoder where
  dcnt : Word
  doutcnt : Word
  /-- CAND. -/
  cand : Bits
  deriving DecidableEq, Repr

/-- The model's own fields (logs 1, 4, 8, 22): the other agents around the block and the counter of free values. No reset
and no command writes them, but for the counter, which BUILD and every reset advance. -/
structure Env where
  /-- Which agent moves next; when empty, the engine if it can, else the host (log 1). -/
  turns : List Turn
  /-- The host operations still to be issued (R109). -/
  script : List HostOp
  /-- HOSTBUF, the host's receive buffer (R109). -/
  hostbuf : List Byte
  /-- The responses of every transaction so far, oldest first (R81, R273). -/
  responses : List Response
  /-- The assertions of every RD with a value so far, oldest first (R109, log 22). -/
  assertions : List Assertion
  /-- How many free values have been drawn (R87, R160, R261; logs 4, 6, 7). -/
  draws : Nat
  deriving DecidableEq, Repr

/-- The state of HUFF-1 (R20) with its parameter (R6) and the model's own fields. -/
structure State where
  /-- The parameters OUTQ_DEPTH and BASE, fixed for a machine; no step writes them (R6, R20, R80, logs 3, 15). -/
  cfg : Config
  /-- SLOT (R59): `none`, or the command word accepted and not yet completed. -/
  slot : Option Word
  /-- PHASE (R27). -/
  phase : Phase
  /-- STATUS.BERR (R26). -/
  berr : Bool
  /-- ERR, ERRCODE, ERRINFO, ERRCMD. -/
  latch : ErrLatch
  /-- INTEN[2:0] (R32). -/
  inten : BitVec 3
  /-- INTPEND.CMDDONE (R33). -/
  cmdDone : Bool
  /-- OUTQ (R36), its head first. -/
  outq : List Byte
  /-- FREQ[0..255] (R37). -/
  freq : Vector Word 256
  /-- TOTAL (R38). -/
  total : Word
  /-- NODE, ROOT, NODECNT. -/
  tree : Tree
  /-- HEAP (R42): at most 256 node indices. Its contents matter only inside a BUILD, which is one step, and are a free value
  after it and after a reset (log 6). -/
  heap : List NodeIdx
  /-- CT[0..255] (R48). -/
  ct : Vector CtEntry 256
  /-- The packer. -/
  pk : Packer
  /-- The decoder. -/
  dec : Decoder
  /-- CT_SEL (R49). -/
  ctSel : BitVec 8
  /-- NODE_SEL (R45). -/
  nodeSel : BitVec 9
  /-- The model's own fields. -/
  env : Env
  deriving DecidableEq, Repr

/-- Nothing faults: HUFF-1 reports everything it turns away by BusError or an engine error, both of them next states (R239,
R240, R272), and a wait is a state, not a stop (R266, log 2). So the type has no constructor. -/
inductive Fault where
  deriving DecidableEq, Repr

/-- Why a step has no meaning. -/
inductive Refusal where
  /-- Raised by an arm of `exec` whose command has no meaning yet; safe. No arm raises it: all 13 commands are modelled. -/
  | notModelled (mnemonic : String)
  deriving DecidableEq, Repr

/-- An all-zero node: what NODE holds after reset. DESIGN CHOICE (log 5): R61 leaves NODE unspecified and unobservable. -/
def Node.zero : Node := { w := 0#32, leaf := false, sym := 0#8, left := 0#9, right := 0#9 }

/-- "No entry", with a zero code (R61, R172). -/
def CtEntry.empty : CtEntry := { len := 0#8, code := 0#256 }

/-- The clear error latch (R61, R128). -/
def ErrLatch.clear : ErrLatch := { err := false, code := 0#8, info := 0#32, cmd := 0#32 }

/-- R61: every piece of state at its reset value, for a machine with the given parameter, beside the given surroundings. -/
def State.resetWith (cfg : Config) (env : Env) : State where
  cfg := cfg
  slot := none
  phase := .idle
  berr := false
  latch := ErrLatch.clear
  inten := 0#3
  cmdDone := false
  outq := []
  freq := Vector.replicate 256 0#32
  total := 0#32
  tree := { node := Vector.replicate 511 Node.zero, root := 0#9, count := 0#9 }
  heap := []
  ct := Vector.replicate 256 CtEntry.empty
  pk := { accn := 0#3, accv := 0#7, syms := 0#32, bits := 0#64, last := 0#4 }
  dec := { dcnt := 0#32, doutcnt := 0#32, cand := [] }
  ctSel := 0#8
  nodeSel := 0#9
  env := env

/-- No turn fixed, no host operation pending, HOSTBUF empty (R274), no response, assertion or draw yet. -/
def Env.initial : Env := { turns := [], script := [], hostbuf := [], responses := [], assertions := [], draws := 0 }

/-- The machine right after reset (R61, R263), with the reference OUTQ_DEPTH (log 3) and an idle host (log 9). -/
def State.reset : State := State.resetWith Config.reference Env.initial

end Sys2Proof.Machine
end

