-- ==== Sys2Proof/Machine/CodeTable.lean ====
section
/-! DEFINITION. Reading the code table: code(s) (00_scope R12), the symbols that have a code, NSYM and MAXLEN (10_state R39,
R40), and Validate (45_decoder R211). -/

namespace Sys2Proof.Machine

/-- The code table CT[0..255] (R48). -/
abbrev CodeTable := Vector CtEntry 256

/-- CT[s] (R11). -/
def ctAt (ct : CodeTable) (s : Byte) : CtEntry := ct[s.toNat]'(s.isLt)

/-- CT with CT[s] replaced. -/
def ctSet (ct : CodeTable) (s : Byte) (e : CtEntry) : CodeTable := ct.set s.toNat e s.isLt

/-- The bit string an entry holds, code[len-1:0], first bit = bit len-1 (R12, R97). Stored bits at positions ≥ len are not
part of it (R174). It is empty for len = 0, which is "no entry". -/
def codeOf (e : CtEntry) : Bits := bitsOf e.len.toNat e.code.toNat

/-- The symbols with len ≠ 0, ascending, each with its code. -/
def present (ct : CodeTable) : List (Byte × Bits) :=
  (allSymbols.zip ct.toList).filterMap fun p => if p.2.len = 0#8 then none else some (p.1, codeOf p.2)

/-- The number of symbols that have a code, 0..256 (R39). -/
def symbolCount (ct : CodeTable) : Nat := (present ct).length

/-- The longest code length, 0 when no symbol has a code (R40). -/
def longestCode (ct : CodeTable) : Nat := ct.toList.foldl (fun m e => max m e.len.toNat) 0

/-- The pairs of symbols Validate's inner test rejects (R211): s ≠ t, both with codes, len(s) ≤ len(t), code(s) ⊑ code(t). -/
def pairViolates (x y : Byte × Bits) : Bool := x.1 != y.1 && x.2.length ≤ y.2.length && isPrefix x.2 y.2

/-- zext_32(s) | (zext_32(t) << 8), the detail of a violating pair (R211, R236). -/
def pairInfo (s t : Byte) : Word := s.zeroExtend 32 ||| (t.zeroExtend 32 <<< 8)

/-- Validate() of R211: `none` is OK, `some x` is FAIL(x). The outer loop is over s, the inner over t, both ascending. -/
def validate (ct : CodeTable) : Option Word :=
  let cs := present ct
  if cs.isEmpty then some 0x80000000#32
  else cs.findSome? fun x => cs.findSome? fun y => if pairViolates x y then some (pairInfo x.1 y.1) else none

/-- Every entry cleared (R172, R175). -/
def emptyTable : CodeTable := Vector.replicate 256 CtEntry.empty

end Sys2Proof.Machine
end

