-- ==== Sys2Proof/Machine/Flags.lean ====
section
/-! DEFINITION. Everything that is a function of the state and no state itself: the fields of STATUS (10_state R26, R27),
INTPEND (R33), the interrupt output (60_exceptions R248), and when the engine's step is enabled (40_control R121, R122). -/

namespace Sys2Proof.Machine

/-- The value of PHASE in STATUS[3:2] (R27). -/
def phaseBits : Phase → BitVec 2
  | .idle => 0#2
  | .pack => 1#2
  | .decode => 2#2

/-- BUSY: 1 iff SLOT ≠ none (R26, R59). -/
def busy (s : State) : Bool := s.slot.isSome

/-- OUTCNT, the number of bytes in OUTQ (R35). -/
def outCount (s : State) : Nat := s.outq.length

/-- OUTQ_DEPTH - OUTCNT ≥ n, as integers (R121). -/
def hasRoom (n : Nat) (s : State) : Bool := n + outCount s ≤ s.cfg.outqDepth

/-- The enabling condition of EngineStep for the word in SLOT (R121): ERR = 1, or room for NEED(OP). -/
def engineReady (s : State) : Bool :=
  match s.slot with
  | none => false
  | some w => s.latch.err || hasRoom (need (wordOp w)) s

/-- HELD: SLOT ≠ none and ERR = 0 and OUTQ_DEPTH - OUTCNT < NEED(SLOT[31:24]) (R26). -/
def held (s : State) : Bool :=
  match s.slot with
  | none => false
  | some w => !s.latch.err && !hasRoom (need (wordOp w)) s

/-- DDONE: PHASE = DECODE and DOUTCNT = DCNT (R26). -/
def ddone (s : State) : Bool := s.phase == .decode && s.dec.doutcnt == s.dec.dcnt

/-- OUTAVAIL: OUTCNT > 0 (R26). -/
def outAvail (s : State) : Bool := 0 < outCount s

/-- OUTFULL: OUTCNT = OUTQ_DEPTH (R26). -/
def outFull (s : State) : Bool := outCount s == s.cfg.outqDepth

/-- STATUS (R26): BERR [8], OUTFULL [7], OUTAVAIL [6], HELD [5], DDONE [4], PHASE [3:2], ERR [1], BUSY [0], the rest 0. -/
def status (s : State) : Word :=
  0#23 ++ BitVec.ofBool s.berr ++ BitVec.ofBool (outFull s) ++ BitVec.ofBool (outAvail s) ++ BitVec.ofBool (held s) ++
    BitVec.ofBool (ddone s) ++ phaseBits s.phase ++ BitVec.ofBool s.latch.err ++ BitVec.ofBool (busy s)

/-- INTPEND (R33): CMDDONE [0], the mirrors ERR [1] and OUTAVAIL [2], the rest 0. -/
def intPend (s : State) : Word :=
  0#29 ++ BitVec.ofBool (outAvail s) ++ BitVec.ofBool s.latch.err ++ BitVec.ofBool s.cmdDone

/-- The level of the output `irq` (R248, R60). -/
def irq (s : State) : Bool :=
  (s.inten.getLsbD 0 && s.cmdDone) || (s.inten.getLsbD 1 && s.latch.err) || (s.inten.getLsbD 2 && outAvail s)

end Sys2Proof.Machine
end

