-- ==== Sys2Proof/Machine/Ops.lean ====
section
/-! DEFINITION. The operations every command shares: the register files and OUTQ (10_state R34, R36, R37), the error entry
(60_exceptions R240) and the return from it (R243), reset (70_reset R261), and the dispatch frame Execute and Complete
(40_control R123, R124). -/

namespace Sys2Proof.Machine

/-- FREQ[s] (R37). -/
def freqAt (s : State) (sym : Byte) : Word := s.freq[sym.toNat]'(sym.isLt)

/-- FREQ[sym] <- v. -/
def setFreq (sym : Byte) (v : Word) (s : State) : State := { s with freq := s.freq.set sym.toNat v sym.isLt }

/-- Push each byte at the tail of OUTQ, in order (R11, R36). -/
def pushBytes (bs : List Byte) (s : State) : State := { s with outq := s.outq ++ bs }

/-- The engine's error codes (R230). -/
inductive ErrCode where
  | illegalCmd
  | badPhase
  | empty
  | overflow
  | noCode
  | corruptTable
  | deadEnd
  | underrun
  deriving DecidableEq, Repr

/-- ERRCODE of each error (R230); 0x09..0xFF are never produced. -/
def errByte : ErrCode → Byte
  | .illegalCmd => 0x01#8
  | .badPhase => 0x02#8
  | .empty => 0x03#8
  | .overflow => 0x04#8
  | .noCode => 0x05#8
  | .corruptTable => 0x06#8
  | .deadEnd => 0x07#8
  | .underrun => 0x08#8

/-- TAKING AN ERROR, the error entry of R240 with w the word being executed: the latch is written, PHASE <- IDLE, the
pending packer and decoder bits are discarded. Everything else stays as the command left it (R241). -/
def errorEntry (code : ErrCode) (info : Word) (w : Word) (s : State) : State :=
  { s with
    latch := { err := true, code := errByte code, info := info, cmd := w }
    phase := .idle
    pk := { s.pk with accn := 0#3, accv := 0#7 }
    dec := { s.dec with cand := [] } }

/-- THE RETURN FROM AN ERROR, R128 and R243: the latch and BERR are cleared; nothing is restored. -/
def errorReturn (s : State) : State := { s with latch := ErrLatch.clear, berr := false }

/-- The node store NODE[0..510] (R41). -/
abbrev Arena := Vector Node 511

/-- What NODE[i] holds where a BUILD or a reset leaves it without a defined value (R160, R261, log 7). -/
def freeNode (draw i : Nat) : Node :=
  let v := Config.hiddenNode draw i
  { w := v.1, leaf := v.2.1, sym := v.2.2.1, left := v.2.2.2.1, right := v.2.2.2.2 }

/-- A node store with no defined entry: what a reset leaves (R261), and what BUILD fills from index 0 (R160). -/
def freeArena (draw : Nat) : Arena := ⟨⟨(List.range 511).map (freeNode draw)⟩, by simp⟩

/-- HEAPCAP (R6): the heap holds at most 256 node indices. -/
def heapCap : Nat := 256

/-- A heap with no defined contents: what a BUILD and a reset leave (R42, R261, log 6). -/
def freeHeap (draw : Nat) : List NodeIdx := (Config.heapContents draw).take heapCap

/-- Reset of the block (R61, R261): every piece of its state at its reset value; NODE and HEAP become unspecified, which is a
draw of free values (logs 6, 7). The parameter and the other agents are not its state. -/
def resetBlock (s : State) : State :=
  let t := State.resetWith s.cfg { s.env with draws := s.env.draws + 1 }
  { t with tree := { t.tree with node := freeArena s.env.draws }, heap := freeHeap s.env.draws }

/-- What the rule of a command does: it ends, or raises Error(code, info) with the state at the point of the raise (R11,
R241). -/
inductive Effect where
  | done (s : State)
  | raise (code : ErrCode) (info : Word) (s : State)
  deriving DecidableEq, Repr

/-- Allowed(d) of R125. -/
def allowed : Mnemonic → Phase → Bool
  | .nop, _ | .srst, _ | .errclr, _ => true
  | .fclr, p | .fadd, p | .build, p | .ctclr, p | .pkstart, p | .darm, p => p == .idle
  | .pkb, p | .pkend, p => p == .pack
  | .din, p | .dend, p => p == .decode

/-- The commands that run while ERR = 1 (R123, R242). -/
def runsInError : Mnemonic → Bool
  | .nop | .srst | .errclr => true
  | .fclr | .fadd | .build | .ctclr | .pkstart | .pkb | .pkend | .darm | .din | .dend => false

/-- Execute of R123 for a decoded command, its checks in the order of R245. `encode i` is the word being executed (log 18). -/
def execute (i : Instr) (effect : State → Effect) (s : State) : State :=
  if s.latch.err && !runsInError i.mnemonic then s
  else if !allowed i.mnemonic s.phase then errorEntry .badPhase ((phaseBits s.phase).zeroExtend 32) (encode i) s
  else
    match effect s with
    | .done t => t
    | .raise code info t => errorEntry code info (encode i) t

/-- Complete of R124: SLOT <- none, and CMDDONE <- 1 unless the command is SRST. -/
def complete (isSrst : Bool) (s : State) : State :=
  { s with slot := none, cmdDone := if isSrst then s.cmdDone else true }

/-- EngineStep's action for a decoded command (R121): Execute, then Complete, in one atomic step. -/
def runCommand (i : Instr) (effect : State → Effect) (s : State) : Host.Outcome State Fault Refusal :=
  .next (complete (i.mnemonic == .srst) (execute i effect s))

/-- EngineStep's action for a word that Decode maps to ILLEGAL (R123, R231): discarded while ERR = 1, otherwise
Error(ILLEGAL_CMD, 0); then Complete. -/
def runIllegal (w : Word) (s : State) : Host.Outcome State Fault Refusal :=
  .next (complete false (if s.latch.err then s else errorEntry .illegalCmd 0#32 w s))

end Sys2Proof.Machine
end

