-- ==== Sys2Proof/Machine/Control.lean ====
section
/-! DEFINITION. The control commands NOP, SRST and ERRCLR (40_control R126 to R128). -/

namespace Sys2Proof.Machine

/-- NOP (R126): nothing. It runs in every phase and while ERR = 1. -/
def execNop (s : State) : Host.Outcome State Fault Refusal := runCommand .nop .done s

/-- SRST (R127): every piece of state to its reset value. -/
def execSrst (s : State) : Host.Outcome State Fault Refusal := runCommand .srst (fun t => .done (resetBlock t)) s

/-- ERRCLR (R128): the error latch and BERR are cleared. -/
def execErrclr (s : State) : Host.Outcome State Fault Refusal := runCommand .errclr (fun t => .done (errorReturn t)) s

end Sys2Proof.Machine
end

