-- ==== Sys2Proof/Machine/Decoding.lean ====
section
/-! DEFINITION. The bitstream decoder: Step (45_decoder R213), DARM, DIN and DEND (R212, R214, R215). -/

namespace Sys2Proof.Machine

/-- The symbol whose code is the candidate (R213). In a table Validate accepts it is unique; in any other the lowest such
symbol stands (log 12). -/
def matchedSymbol (ct : CodeTable) (cand : Bits) : Option Byte := ((present ct).find? (fun x => x.2 == cand)).map Prod.fst

/-- Some code has the candidate as a proper prefix (R213). -/
def canStillMatch (ct : CodeTable) (cand : Bits) : Bool := (present ct).any fun x => isProperPrefix cand x.2

/-- Step(bit) of R213. -/
def stepBit (bit : Bool) (s : State) : Effect :=
  let cand := s.dec.cand ++ [bit]
  match matchedSymbol s.ct cand with
  | some sym => .done { pushBytes [sym] s with dec := { s.dec with doutcnt := s.dec.doutcnt + 1#32, cand := [] } }
  | none =>
    let t := { s with dec := { s.dec with cand := cand } }
    if canStillMatch s.ct cand then .done t else .raise .deadEnd s.dec.doutcnt t

/-- The loop of R214 over the bits still to come: it stops at DOUTCNT = DCNT (R216) and at a DEAD_END. -/
def feedBits : Bits → State → Effect
  | [], s => .done s
  | b :: bs, s =>
    if s.dec.doutcnt = s.dec.dcnt then .done s
    else
      match stepBit b s with
      | .done t => feedBits bs t
      | .raise code info t => .raise code info t

/-- The opening of a session (R212): CAND <- empty, DOUTCNT <- 0, PHASE <- DECODE. -/
def openDecode (s : State) : State :=
  { s with dec := { s.dec with cand := [], doutcnt := 0#32 }, phase := .decode }

/-- The effect of DARM (R212): with DCNT ≠ 0 the table is validated first; with DCNT = 0 it is not (D40). -/
def darmEffect (s : State) : Effect :=
  if s.dec.dcnt = 0#32 then .done (openDecode s)
  else
    match validate s.ct with
    | some x => .raise .corruptTable x s
    | none => .done (openDecode s)

/-- The effect of DIN b (R214): the bits 7, 6, ..., 0 of b. -/
def dinEffect (b : Byte) (s : State) : Effect := feedBits (bitsOfByte b) s

/-- The effect of DEND (R215): UNDERRUN if DOUTCNT < DCNT, otherwise CAND <- empty and PHASE <- IDLE. -/
def dendEffect (s : State) : Effect :=
  if s.dec.doutcnt.toNat < s.dec.dcnt.toNat then .raise .underrun s.dec.doutcnt s
  else .done { s with dec := { s.dec with cand := [] }, phase := .idle }

/-- DARM (R212). -/
def execDarm (s : State) : Host.Outcome State Fault Refusal := runCommand .darm darmEffect s

/-- DIN b (R214). -/
def execDin (b : Byte) (s : State) : Host.Outcome State Fault Refusal := runCommand (.din b) (dinEffect b) s

/-- DEND (R215). -/
def execDend (s : State) : Host.Outcome State Fault Refusal := runCommand .dend dendEffect s

end Sys2Proof.Machine
end

