-- ==== Sys2Proof/Machine/Frequency.lean ====
section
/-! DEFINITION. The frequency counter: FCLR (41_frequency R141) and FADD (R142). -/

namespace Sys2Proof.Machine

/-- The effect of FCLR (R141): every FREQ[s] and TOTAL <- 0. -/
def fclrEffect (s : State) : Effect := .done { s with freq := Vector.replicate 256 0#32, total := 0#32 }

/-- The effect of FADD sym (R142): OVERFLOW at TOTAL = 2^32 - 1, otherwise both counts go up by one. -/
def faddEffect (sym : Byte) (s : State) : Effect :=
  if s.total = Config.countMax then .raise .overflow (operandNumber sym) s
  else .done { setFreq sym (freqAt s sym + 1#32) s with total := s.total + 1#32 }

/-- FCLR (R141). -/
def execFclr (s : State) : Host.Outcome State Fault Refusal := runCommand .fclr fclrEffect s

/-- FADD sym (R142). -/
def execFadd (sym : Byte) (s : State) : Host.Outcome State Fault Refusal := runCommand (.fadd sym) (faddEffect sym) s

end Sys2Proof.Machine
end

