-- ==== Sys2Proof/Machine/Packing.lean ====
section
/-! DEFINITION. The bitstream packer: PKSTART, PKB and PKEND (44_packer R190 to R192). -/

namespace Sys2Proof.Machine

/-- The pending bits of the accumulator, ACCV[ACCN-1:0], first pending bit first (R52). -/
def pendingBits (p : Packer) : Bits := bitsOf p.accn.toNat p.accv.toNat

/-- The effect of PKSTART (R190): the packer registers are cleared and PHASE <- PACK. CT and OUTQ are not looked at. -/
def pkstartEffect (s : State) : Effect :=
  .done { s with pk := { accn := 0#3, accv := 0#7, syms := 0#32, bits := 0#64, last := 0#4 }, phase := .pack }

/-- The effect of PKB sym (R191): NO_CODE, then OVERFLOW; otherwise the code goes after the pending bits, whole bytes leave
through OUTQ, and the rest is pending. -/
def pkbEffect (sym : Byte) (s : State) : Effect :=
  let e := ctAt s.ct sym
  if e.len = 0#8 then .raise .noCode (operandNumber sym) s
  else if s.pk.syms = Config.countMax then .raise .overflow (operandNumber sym) s
  else
    let r := packBytes (pendingBits s.pk ++ codeOf e)
    .done { pushBytes r.1 s with
      pk := { s.pk with
        accn := BitVec.ofNat 3 r.2.length
        accv := BitVec.ofNat 7 (num r.2)
        syms := s.pk.syms + 1#32
        bits := s.pk.bits + e.len.zeroExtend 64 } }

/-- The final byte of R192 and R194: the pending bits, then zeros on the low-order end. -/
def paddedByte (p : Packer) : Byte := byteOfBits (pendingBits p ++ List.replicate (8 - p.accn.toNat) false)

/-- The effect of PKEND (R192): the padded final byte if bits are pending, PKLAST, the accumulator cleared, PHASE <- IDLE. -/
def pkendEffect (s : State) : Effect :=
  let t :=
    if s.pk.accn = 0#3 then { s with pk := { s.pk with last := if s.pk.bits = 0#64 then 0#4 else 8#4 } }
    else { pushBytes [paddedByte s.pk] s with pk := { s.pk with last := s.pk.accn.zeroExtend 4 } }
  .done { t with pk := { t.pk with accn := 0#3, accv := 0#7 }, phase := .idle }

/-- PKSTART (R190). -/
def execPkstart (s : State) : Host.Outcome State Fault Refusal := runCommand .pkstart pkstartEffect s

/-- PKB sym (R191). -/
def execPkb (sym : Byte) (s : State) : Host.Outcome State Fault Refusal := runCommand (.pkb sym) (pkbEffect sym) s

/-- PKEND (R192). -/
def execPkend (s : State) : Host.Outcome State Fault Refusal := runCommand .pkend pkendEffect s

end Sys2Proof.Machine
end

