-- ==== Sys2Proof/Machine/TableCommands.lean ====
section
/-! DEFINITION. CTCLR, clear the code table (43_code_table R175). -/

namespace Sys2Proof.Machine

/-- The effect of CTCLR (R175): every CT entry <- (0, 0). -/
def ctclrEffect (s : State) : Effect := .done { s with ct := emptyTable }

/-- CTCLR (R175). -/
def execCtclr (s : State) : Host.Outcome State Fault Refusal := runCommand .ctclr ctclrEffect s

end Sys2Proof.Machine
end

