-- ==== Sys2Proof/Machine/TreeBuilder.lean ====
section
/-! DEFINITION. The tree builder: leaves in ascending symbol order (42_tree_builder R151), the priority queue with its key
(weight, index) (R153), combination (R154), and the code generator's walk (43_code_table R170), together BUILD (R150). -/

namespace Sys2Proof.Machine

/-- NODE[i]; past the last entry there is none, and the zero node stands there (log 20). -/
def nodeAt (a : Arena) (i : Nat) : Node := a[i]?.getD Node.zero

/-- key(i) = (NODE[i].w, i) of R153: an entry of the priority queue, a node index with its node's weight (log 19). -/
structure Key where
  w : Word
  idx : NodeIdx
  deriving DecidableEq, Repr

/-- Less of R153 and R156: weight first, then index. -/
def keyLess (a b : Key) : Bool := a.w.toNat < b.w.toNat || (a.w == b.w && a.idx.toNat < b.idx.toNat)

/-- ExtractMin (R153): the entry with the smallest key, and the queue without it; `none` on an empty queue. -/
def extractMin : List Key → Option (Key × List Key)
  | [] => none
  | k :: ks =>
    match extractMin ks with
    | none => some (k, [])
    | some (m, rest) => if keyLess k m then some (k, ks) else some (m, k :: rest)

/-- One leaf per symbol with FREQ[s] ≠ 0, in ascending symbol order (R151). -/
def leavesOf (freq : Vector Word 256) : List Node :=
  (allSymbols.zip freq.toList).filterMap fun p =>
    if p.2 = 0#32 then none else some { w := p.2, leaf := true, sym := p.1, left := 0#9, right := 0#9 }

/-- NODE[k], NODE[k+1], ... <- the given nodes. -/
def storeNodes (a : Arena) (k : Nat) : List Node → Arena
  | [] => a
  | n :: ns => storeNodes (a.setIfInBounds k n) (k + 1) ns

/-- The queue of R150 before the loop: the entries of NODE[k], NODE[k+1], .... -/
def keysOf (k : Nat) : List Node → List Key
  | [] => []
  | n :: ns => { w := n.w, idx := BitVec.ofNat 9 k } :: keysOf (k + 1) ns

/-- What BUILD's loop works on: the node store, the next free index k, and the queue PQ (R150). -/
structure Forest where
  node : Arena
  k : Nat
  pq : List Key
  deriving DecidableEq, Repr

/-- R154: NODE[k] becomes the parent of a (left, extracted first) and b (right), and k goes into the queue `rest`. -/
def combine (f : Forest) (a b : Key) (rest : List Key) : Forest :=
  { node := f.node.setIfInBounds f.k { w := a.w + b.w, leaf := false, sym := 0#8, left := a.idx, right := b.idx }
    k := f.k + 1
    pq := { w := a.w + b.w, idx := BitVec.ofNat 9 f.k } :: rest }

/-- The loop of R150, while |PQ| ≥ 2. Each turn takes two entries and puts back one, so |PQ| turns are enough fuel. -/
def mergeAll : Nat → Forest → Forest
  | 0, f => f
  | fuel + 1, f =>
    match extractMin f.pq with
    | none => f
    | some (a, pq1) =>
      match extractMin pq1 with
      | none => f
      | some (b, pq2) => mergeAll fuel (combine f a b pq2)

/-- R150 up to ROOT: the leaves stored and queued, then merged until one entry is left. -/
def buildForest (freq : Vector Word 256) (draw : Nat) : Forest :=
  let ls := leavesOf freq
  mergeAll ls.length { node := storeNodes (freeArena draw) 0 ls, k := ls.length, pq := keysOf 0 ls }

/-- The single element of PQ (R150); 0 for an empty queue, which BUILD never asks for. -/
def rootOf (f : Forest) : NodeIdx :=
  match f.pq with
  | [] => 0#9
  | r :: _ => r.idx

/-- CT[sym] <- (|p|, zext_256(num(p))) (R170, R10). -/
def writeCode (sym : Byte) (p : Bits) (ct : CodeTable) : CodeTable :=
  ctSet ct sym { len := BitVec.ofNat 8 p.length, code := BitVec.ofNat 256 (num p) }

/-- Walk(i, p) of R170, left before right. A tree of n ≤ 256 leaves has no path of 256 edges (R158), so 256 is enough
fuel (log 23). -/
def walk (a : Arena) : Nat → NodeIdx → Bits → CodeTable → CodeTable
  | 0, _, _, ct => ct
  | fuel + 1, i, p, ct =>
    let n := nodeAt a i.toNat
    if n.leaf then writeCode n.sym p ct
    else walk a fuel n.right (p ++ [true]) (walk a fuel n.left (p ++ [false]) ct)

/-- CodeGen(r) of R170: every entry cleared (R172), then the walk; a single leaf gets the code "0" (R171). -/
def codeGen (a : Arena) (r : NodeIdx) : CodeTable :=
  let n := nodeAt a r.toNat
  if n.leaf then writeCode n.sym [false] emptyTable
  else walk a 256 r [] emptyTable

/-- The effect of BUILD (R150): EMPTY if every FREQ[s] = 0 (R159), otherwise NODE, ROOT, NODECNT and CT. What is written and
what is left alone is R160; NODE entries at index ≥ NODECNT and the heap's contents are free values (logs 6, 7). -/
def buildEffect (s : State) : Effect :=
  if (leavesOf s.freq).isEmpty then .raise .empty 0#32 s
  else
    let f := buildForest s.freq s.env.draws
    .done { s with
      tree := { node := f.node, root := rootOf f, count := BitVec.ofNat 9 f.k }
      heap := freeHeap s.env.draws
      ct := codeGen f.node (rootOf f)
      env := { s.env with draws := s.env.draws + 1 } }

/-- BUILD (R150). -/
def execBuild (s : State) : Host.Outcome State Fault Refusal := runCommand .build buildEffect s

end Sys2Proof.Machine
end

