-- ==== Sys2Proof/Machine/Dispatch.lean ====
section
/-! DEFINITION. The dispatch of 40_control R123: one arm per command of 30_encoding R103. -/

namespace Sys2Proof.Machine

/-- EngineStep's action for a decoded command: Execute and Complete (R121, R123, R124). -/
def exec (i : Instr) (s : State) : Host.Outcome State Fault Refusal :=
  match i with
  | .nop => Sys2Proof.Machine.execNop s
  | .srst => Sys2Proof.Machine.execSrst s
  | .errclr => Sys2Proof.Machine.execErrclr s
  | .fclr => Sys2Proof.Machine.execFclr s
  | .fadd sym => Sys2Proof.Machine.execFadd sym s
  | .build => Sys2Proof.Machine.execBuild s
  | .ctclr => Sys2Proof.Machine.execCtclr s
  | .pkstart => Sys2Proof.Machine.execPkstart s
  | .pkb sym => Sys2Proof.Machine.execPkb sym s
  | .pkend => Sys2Proof.Machine.execPkend s
  | .darm => Sys2Proof.Machine.execDarm s
  | .din b => Sys2Proof.Machine.execDin b s
  | .dend => Sys2Proof.Machine.execDend s

end Sys2Proof.Machine
end

