-- ==== Sys2Proof/Machine/Registers.lean ====
section
/-! DEFINITION. The register map of 10_state R23: offsets, ownership (R22), which registers are configuration registers (R22,
20_memory R88), and what a read returns when it is defined. -/

namespace Sys2Proof.Machine

/-- The registers of R23. -/
inductive Reg where
  | id
  | param
  | status
  | cmd
  | errcode
  | errinfo
  | errcmd
  | inten
  | intpend
  | dataOut
  | outcnt
  | total
  | nsym
  | maxlen
  | root
  | nodecnt
  | pksyms
  | pkbitsLo
  | pkbitsHi
  | pkacc
  | pklast
  | dcnt
  | doutcnt
  | dcand
  | ctSel
  | ctLen
  /-- CT_CODEk, k = 0..7. -/
  | ctCode (k : BitVec 3)
  | nodeSel
  | nodeW
  | nodeInfo
  /-- FREQ[s], s = 0..255. -/
  | freq (s : Byte)
  deriving DecidableEq, Repr

/-- The byte offset of a register in the 4 KiB window (R23). -/
def regOffset : Reg → BitVec 12
  | .id => 0x000#12
  | .param => 0x004#12
  | .status => 0x008#12
  | .cmd => 0x00C#12
  | .errcode => 0x010#12
  | .errinfo => 0x014#12
  | .errcmd => 0x018#12
  | .inten => 0x01C#12
  | .intpend => 0x020#12
  | .dataOut => 0x024#12
  | .outcnt => 0x028#12
  | .total => 0x030#12
  | .nsym => 0x034#12
  | .maxlen => 0x038#12
  | .root => 0x03C#12
  | .nodecnt => 0x040#12
  | .pksyms => 0x050#12
  | .pkbitsLo => 0x054#12
  | .pkbitsHi => 0x058#12
  | .pkacc => 0x05C#12
  | .pklast => 0x060#12
  | .dcnt => 0x070#12
  | .doutcnt => 0x074#12
  | .dcand => 0x078#12
  | .ctSel => 0x090#12
  | .ctLen => 0x094#12
  | .ctCode k => 0x0A0#12 + (k.zeroExtend 12 <<< 2)
  | .nodeSel => 0x0C0#12
  | .nodeW => 0x0C4#12
  | .nodeInfo => 0x0C8#12
  | .freq s => 0x400#12 + (s.zeroExtend 12 <<< 2)

/-- The size of the register window in bytes (R80). -/
def windowSize : Nat := 4096

/-- The platform address of an offset: the window stands at BASE (R80). -/
def platformAddress (c : Config) (offset : BitVec 12) : Nat := c.base + offset.toNat

/-- The offset a platform address reaches in the window, 0x000..0xFFF from BASE; `none` for an address outside it, which is no
transaction of this block (R80). -/
def windowOffset (c : Config) (address : Nat) : Option (BitVec 12) :=
  if c.base ≤ address && address < c.base + windowSize then some (BitVec.ofNat 12 (address - c.base)) else none

/-- The registers of R23 that stand alone, in the order of the map. -/
def singleRegs : List Reg :=
  [.id, .param, .status, .cmd, .errcode, .errinfo, .errcmd, .inten, .intpend, .dataOut, .outcnt, .total, .nsym, .maxlen,
    .root, .nodecnt, .pksyms, .pkbitsLo, .pkbitsHi, .pkacc, .pklast, .dcnt, .doutcnt, .dcand, .ctSel, .ctLen, .nodeSel,
    .nodeW, .nodeInfo]

/-- The register at a word-aligned offset; `none` is a reserved offset (R23, R84). The two arrays are 0x0A0 + 4k, k = 0..7,
and 0x400 + 4s, s = 0..255. -/
def regAt (addr : BitVec 12) : Option Reg :=
  let n := addr.toNat
  if 0x400 ≤ n && n < 0x800 then some (.freq (BitVec.ofNat 8 ((n - 0x400) / 4)))
  else if 0x0A0 ≤ n && n < 0x0C0 then some (.ctCode (BitVec.ofNat 3 ((n - 0x0A0) / 4)))
  else singleRegs.find? fun r => regOffset r == addr

/-- The engine-owned registers of R22; the rest are host-owned. -/
def engineOwned : Reg → Bool
  | .freq _ | .total | .nsym | .maxlen | .root | .nodecnt | .nodeW | .nodeInfo | .ctLen | .ctCode _ | .pksyms | .pkbitsLo
  | .pkbitsHi | .pkacc | .pklast | .dcnt | .doutcnt | .dcand => true
  | .id | .param | .status | .cmd | .errcode | .errinfo | .errcmd | .inten | .intpend | .dataOut | .outcnt | .ctSel
  | .nodeSel => false

/-- The configuration registers of R22 and R88: DCNT, CT_LEN, CT_CODE0..7. -/
def isConfigReg : Reg → Bool
  | .dcnt | .ctLen | .ctCode _ => true
  | .id | .param | .status | .cmd | .errcode | .errinfo | .errcmd | .inten | .intpend | .dataOut | .outcnt | .total | .nsym
  | .maxlen | .root | .nodecnt | .pksyms | .pkbitsLo | .pkbitsHi | .pkacc | .pklast | .doutcnt | .dcand | .ctSel | .nodeSel
  | .nodeW | .nodeInfo | .freq _ => false

/-- PARAM (R25): WBITS [31:24], MAXLEN_HW [23:16], OUTQ_DEPTH [15:0]. -/
def paramWord (c : Config) : Word := Config.wbits ++ Config.maxlenHw ++ BitVec.ofNat 16 c.outqDepth

/-- DATA_OUT's data (R34): VALID in bit 8 and the head of OUTQ in bits [7:0], or 0 when OUTQ is empty. -/
def dataOutWord (s : State) : Word :=
  match s.outq with
  | [] => 0#32
  | b :: _ => 0#23 ++ 1#1 ++ b

/-- PKACC (R52): ACCN in [2:0], ACCV in [14:8], other bits 0. -/
def pkaccWord (p : Packer) : Word := 0#17 ++ p.accv ++ 0#5 ++ p.accn

/-- NODE_W (R46): NODE[NODE_SEL].w if NODE_SEL < NODECNT, else 0. -/
def nodeWWord (s : State) : Word :=
  if s.nodeSel.toNat < s.tree.count.toNat then (nodeAt s.tree.node s.nodeSel.toNat).w else 0#32

/-- NODE_INFO (R47): VALID [31], LEAF [30], RIGHT [25:17], LEFT [16:8], SYM [7:0], or 0 when NODE_SEL ≥ NODECNT. -/
def nodeInfoWord (s : State) : Word :=
  if s.nodeSel.toNat < s.tree.count.toNat then
    let n := nodeAt s.tree.node s.nodeSel.toNat
    1#1 ++ BitVec.ofBool n.leaf ++ 0#4 ++ (if n.leaf then 0#9 else n.right) ++ (if n.leaf then 0#9 else n.left) ++
      (if n.leaf then n.sym else 0#8)
  else 0#32

/-- CT_CODEk (R51): code[32k+31 : 32k] of an entry. -/
def codeWord (e : CtEntry) (k : BitVec 3) : Word := e.code.extractLsb' (32 * k.toNat) 32

/-- An entry with code[32k+31 : 32k] <- v, the other bits kept (R51). -/
def withCodeWord (e : CtEntry) (k : BitVec 3) (v : Word) : CtEntry :=
  { e with code := (e.code &&& ~~~((0xFFFFFFFF#256) <<< (32 * k.toNat))) ||| (v.zeroExtend 256 <<< (32 * k.toNat)) }

/-- What a read of a register returns when it is defined (the register's own rule; CMD reads 0, R28, R84). -/
def regValue (s : State) : Reg → Word
  | .id => Config.idValue
  | .param => paramWord s.cfg
  | .status => status s
  | .cmd => 0#32
  | .errcode => s.latch.code.zeroExtend 32
  | .errinfo => s.latch.info
  | .errcmd => s.latch.cmd
  | .inten => s.inten.zeroExtend 32
  | .intpend => intPend s
  | .dataOut => dataOutWord s
  | .outcnt => 0#16 ++ BitVec.ofNat 16 (outCount s)
  | .total => s.total
  | .nsym => BitVec.ofNat 32 (symbolCount s.ct)
  | .maxlen => BitVec.ofNat 32 (longestCode s.ct)
  | .root => s.tree.root.zeroExtend 32
  | .nodecnt => s.tree.count.zeroExtend 32
  | .pksyms => s.pk.syms
  | .pkbitsLo => s.pk.bits.extractLsb' 0 32
  | .pkbitsHi => s.pk.bits.extractLsb' 32 32
  | .pkacc => pkaccWord s.pk
  | .pklast => s.pk.last.zeroExtend 32
  | .dcnt => s.dec.dcnt
  | .doutcnt => s.dec.doutcnt
  | .dcand => BitVec.ofNat 32 s.dec.cand.length
  | .ctSel => s.ctSel.zeroExtend 32
  | .ctLen => (ctAt s.ct s.ctSel).len.zeroExtend 32
  | .ctCode k => codeWord (ctAt s.ct s.ctSel) k
  | .nodeSel => s.nodeSel.zeroExtend 32
  | .nodeW => nodeWWord s
  | .nodeInfo => nodeInfoWord s
  | .freq sym => freqAt s sym

end Sys2Proof.Machine
end

