-- ==== Sys2Proof/Machine/Bus.lean ====
section
/-! DEFINITION. Host transactions on the register window (20_memory R80 to R88, 40_control R120): each is one atomic step that
answers a response and the state after it. -/

namespace Sys2Proof.Machine

/-- BusError's only state change (R86): STATUS.BERR <- 1. -/
def busErrorState (s : State) : State := { s with berr := true }

/-- BusError of a read: err = 1 and rdata = 0 (R86). -/
def readError (s : State) : Response × State := (.read 0#32 true, busErrorState s)

/-- BusError of a write (R86). -/
def writeError (s : State) : Response × State := (.write true, busErrorState s)

/-- Pop() at DATA_OUT: the head of OUTQ leaves, nothing happens on an empty queue (R34). -/
def popOut (s : State) : State := { s with outq := s.outq.tail }

/-- A read of a register: DATA_OUT pops (R34); an engine-owned register while BUSY = 1 answers a free value (R87, log 4);
every other read changes nothing (R85). -/
def readReg (r : Reg) (s : State) : Response × State :=
  if engineOwned r && busy s then
    (.read (Config.busyRead s.env.draws) false, { s with env := { s.env with draws := s.env.draws + 1 } })
  else
    match r with
    | .dataOut => (.read (regValue s .dataOut) false, popOut s)
    | _ => (.read (regValue s r) false, s)

/-- Command acceptance (R120): any word goes into an empty SLOT; a write to an occupied one is a BusError and is lost. -/
def submitCommand (w : Word) (s : State) : Response × State :=
  match s.slot with
  | some _ => writeError s
  | none => (.write false, { s with slot := some w })

/-- What an accepted write of a configuration register stores (R50, R51, R56). -/
def storeConfig (r : Reg) (v : Word) (s : State) : State :=
  match r with
  | .dcnt => { s with dec := { s.dec with dcnt := v } }
  | .ctLen => { s with ct := ctSet s.ct s.ctSel { ctAt s.ct s.ctSel with len := v.extractLsb' 0 8 } }
  | .ctCode k => { s with ct := ctSet s.ct s.ctSel (withCodeWord (ctAt s.ct s.ctSel) k v) }
  | _ => s

/-- A write of a register that is neither CMD nor a configuration register (R32, R33, R45, R49; R84 for the read-only
registers and for DATA_OUT, whose write R34 ignores). -/
def storePlain (r : Reg) (v : Word) (s : State) : State :=
  match r with
  | .inten => { s with inten := v.extractLsb' 0 3 }
  | .intpend => if v.getLsbD 0 then { s with cmdDone := false } else s
  | .ctSel => { s with ctSel := v.extractLsb' 0 8 }
  | .nodeSel => { s with nodeSel := v.extractLsb' 0 9 }
  | _ => s

/-- A write of a register: CMD submits (R120); a configuration register is stored only with BUSY = 0 and PHASE = IDLE (R88). -/
def writeReg (r : Reg) (v : Word) (s : State) : Response × State :=
  if r = .cmd then submitCommand v s
  else if isConfigReg r then
    if busy s || s.phase != .idle then writeError s else (.write false, storeConfig r v s)
  else (.write false, storePlain r v s)

/-- One host transaction (R81): anything but an aligned full word is a BusError (R82), a reserved offset reads 0 and ignores
writes (R84). -/
def access (tx : BusTx) (s : State) : Response × State :=
  match tx with
  | .read addr narrow =>
    if narrow || addr.extractLsb' 0 2 != 0#2 then readError s
    else
      match regAt addr with
      | none => (.read 0#32 false, s)
      | some r => readReg r s
  | .write addr v strb =>
    if addr.extractLsb' 0 2 != 0#2 || strb != 0b1111#4 then writeError s
    else
      match regAt addr with
      | none => (.write false, s)
      | some r => writeReg r v s

/-- The data a response carries; a write's response carries none (R81). -/
def responseData : Response → Word
  | .read rdata _ => rdata
  | .write _ => 0#32

/-- A response handed to the host: the model's log of what the host got (log 8). -/
def recordResponse (r : Response) (s : State) : State :=
  { s with env := { s.env with responses := s.env.responses ++ [r] } }

/-- A transaction with its response recorded. -/
def transact (tx : BusTx) (s : State) : State :=
  let r := access tx s
  recordResponse r.1 r.2

end Sys2Proof.Machine
end

