-- ==== Sys2Proof/Machine/HostAgent.lean ====
section
/-! DEFINITION. The HOST agent: one transaction per step, taken from the host's script (00_scope R7, 30_encoding R109, R110). -/

namespace Sys2Proof.Machine

/-- The script with its next operation replaced by the given ones. -/
def setScript (ops : List HostOp) (s : State) : State := { s with env := { s.env with script := ops } }

/-- HOSTBUF <- HOSTBUF ++ [b] (R110). -/
def appendHostbuf (b : Byte) (s : State) : State := { s with env := { s.env with hostbuf := s.env.hostbuf ++ [b] } }

/-- An asserted value held against the value read (R109). A failing one changes nothing else, and the script goes on (log 22). -/
def recordAssertion (a : Assertion) (s : State) : State :=
  { s with env := { s.env with assertions := s.env.assertions ++ [a] } }

/-- Whether an assertion holds: the value read is the value asserted (R109). -/
def assertionHolds (a : Assertion) : Bool := a.got == a.asserted

/-- Every assertion made so far holds (R109). -/
def assertionsHold (s : State) : Bool := s.env.assertions.all assertionHolds

/-- RD STATUS. -/
def readStatusTx : BusTx := .read (regOffset .status) false

/-- RD DATA_OUT. -/
def readDataOutTx : BusTx := .read (regOffset .dataOut) false

/-- What the loop of WAIT does after a STATUS read st (R110): leave when BUSY = 0 and OUTAVAIL = 0, take a byte when
OUTAVAIL = 1, and go round. -/
def afterWaitPoll (st : Word) (rest : List HostOp) : List HostOp :=
  if !st.getLsbD 0 && !st.getLsbD 6 then rest
  else if st.getLsbD 6 then .take :: .wait :: rest
  else .wait :: rest

/-- What the loop of DRAIN does after a STATUS read st (R110). -/
def afterDrainPoll (st : Word) (rest : List HostOp) : List HostOp :=
  if !st.getLsbD 6 then rest else .take :: .drain :: rest

/-- One step of the HOST: the transaction its next operation issues. With nothing left to issue the host does nothing. -/
def hostStep (s : State) : State :=
  match s.env.script with
  | [] => s
  | .bus tx :: rest => transact tx (setScript rest s)
  | .readAsserting addr v :: rest =>
    let r := access (.read addr false) s
    recordAssertion ⟨addr, v, responseData r.1⟩ (setScript rest (recordResponse r.1 r.2))
  | .wait :: rest =>
    let r := access readStatusTx s
    setScript (afterWaitPoll (responseData r.1) rest) (recordResponse r.1 r.2)
  | .drain :: rest =>
    let r := access readStatusTx s
    setScript (afterDrainPoll (responseData r.1) rest) (recordResponse r.1 r.2)
  | .take :: rest =>
    let r := access readDataOutTx s
    appendHostbuf ((responseData r.1).extractLsb' 0 8) (setScript rest (recordResponse r.1 r.2))

end Sys2Proof.Machine
end

