-- ==== Sys2Proof/Machine/Engine.lean ====
section
/-! DEFINITION. The three agents' steps and whose turn it is: EngineStep (40_control R121 to R123), the `rst` event (70_reset
R261), the host's step, and their interleaving (00_scope R7, 20_memory R89). -/

namespace Sys2Proof.Machine

/-- Execute(w) and Complete for the word in SLOT (R121, R123): decoded only now (R104). -/
def execWord (w : Word) (s : State) : Host.Outcome State Fault Refusal :=
  match decode w with
  | .ok i => exec i s
  | .error _ => runIllegal w s

/-- EngineStep (R121): taken when the engine is ready; with SLOT = none, or with a held command (R122), the engine has no
step, and the state stays as it is (log 2). -/
def engineStep (s : State) : Host.Outcome State Fault Refusal :=
  match s.slot with
  | none => .next s
  | some w => if engineReady s then execWord w s else .next s

/-- The `rst` event (R261): the block's state is reset in one atomic step; a word in SLOT is dropped without completion. -/
def rstStep (s : State) : State := resetBlock s

/-- One step of the machine. The agent is the one `env.turns` names next; when it names none, the engine moves if its step
is enabled and the host otherwise, which is a weakly fair order (R270, log 1). -/
def takeTurn (s : State) : Host.Outcome State Fault Refusal :=
  match s.env.turns with
  | [] => if engineReady s then engineStep s else .next (hostStep s)
  | .engine :: rest => engineStep { s with env := { s.env with turns := rest } }
  | .host :: rest => .next (hostStep { s with env := { s.env with turns := rest } })
  | .rst :: rest => .next (rstStep { s with env := { s.env with turns := rest } })

/-- The state with a command word in SLOT and the engine's turn next. -/
def placeWord (w : Word) (s : State) : State :=
  { s with
    slot := some w
    env := { s.env with turns := if s.env.turns.isEmpty then [] else .engine :: s.env.turns } }

end Sys2Proof.Machine
end

