-- ==== Sys2Proof/Machine/Step.lean ====
section
/-! DEFINITION. One step of HUFF-1, and a state whose next step runs a given command word. -/

namespace Sys2Proof.Machine

/-- One step: one transaction of the host, one step of the engine, or one `rst` event (R7, R261). -/
def step (s : State) : Host.Outcome State Fault Refusal := takeTurn s

/-- `s` with a command word of `nbits` bits where the engine takes its next command from, the SLOT (R59, R121), so that the
very next step runs it when OUTQ has the room it waits for (R122, log 9). -/
def State.withFetchWord (s : State) (nbits w : Nat) : State := placeWord (BitVec.ofNat 32 (w % 2 ^ nbits)) s

end Sys2Proof.Machine
end

