-- ==== Sys2Proof/Machine/RunEnd.lean ====
section
/-! DEFINITION. Runs of a host program: the state it is launched in (70_reset R274), when a run has ended, what is then
observed, and whether it ended in an error (R273). -/

namespace Sys2Proof.Machine

/-- A host program about to run from a start state: all of it still to be issued, HOSTBUF empty (R274), no response and no
assertion yet. -/
def launchFrom (s : State) (program : List HostOp) : State :=
  { s with env := { s.env with script := program, hostbuf := [], responses := [], assertions := [] } }

/-- A host program about to run from the reset state (R274). -/
def launch (program : List HostOp) : State := launchFrom State.reset program

/-- R273 (a): every transaction has been issued, and each WAIT and DRAIN has exited. -/
def scriptDone (s : State) : Bool := s.env.script.isEmpty

/-- R273 (a), (b), (c): the run has ended. `leavesBytes` says that the program ends with bytes deliberately left in OUTQ, which
is the program's intention and no part of the state (log 24). -/
def runEnded (leavesBytes : Bool) (s : State) : Bool := scriptDone s && !busy s && (leavesBytes || !outAvail s)

/-- The state after n steps; a step that stopped would end the run there. -/
def stepTimes : Nat → State → Host.Outcome State Fault Refusal
  | 0, s => .next s
  | n + 1, s =>
    match step s with
    | .next t => stepTimes n t
    | .fault r => .fault r
    | .refused r => .refused r

/-- A run from s ends in the state t (R273). -/
def RunEndsIn (leavesBytes : Bool) (s t : State) : Prop := (∃ n, stepTimes n s = .next t) ∧ runEnded leavesBytes t = true

/-- Every register of R23, in the order of the map. -/
def allRegs : List Reg :=
  singleRegs ++ (List.range 8).map (fun k => .ctCode (BitVec.ofNat 3 k)) ++ allSymbols.map .freq

/-- CT_LEN and CT_CODE0..7 as a host reads them with CT_SEL = sym (R49 to R51). -/
def tableView (s : State) (sym : Byte) : Word × List Word :=
  let t := { s with ctSel := sym }
  (regValue t .ctLen, (List.range 8).map fun k => regValue t (.ctCode (BitVec.ofNat 3 k)))

/-- NODE_W and NODE_INFO as a host reads them with NODE_SEL = i (R45 to R47). -/
def nodeView (s : State) (i : Nat) : Word × Word :=
  let t := { s with nodeSel := BitVec.ofNat 9 i }
  (regValue t .nodeW, regValue t .nodeInfo)

/-- The err bit of a response (R81). -/
def responseErr : Response → Bool
  | .read _ err => err
  | .write err => err

/-- The observation of a run (R273). What a read returned is no part of it; R273 speaks of the registers of the end state. -/
structure Observation where
  /-- Every register of R23 with its value in the end state. -/
  registers : List (Reg × Word)
  /-- Every code-table entry as its window shows it, by symbol (log 24). -/
  table : List (Word × List Word)
  /-- The nodes below NODECNT as their window shows them; R273 says nothing of the others (log 24). -/
  nodes : List (Word × Word)
  /-- HOSTBUF: the bytes the program drained, in order. -/
  hostbuf : List Byte
  /-- The err responses the program received, in order. DESIGN CHOICE (log 25): R273 does not say which; here the err bit of
  every response is one, of polls and of err = 0 too. -/
  errs : List Bool
  deriving DecidableEq, Repr

/-- The observation of the state a run ended in, where BUSY = 0 (R273). -/
def observe (s : State) : Observation where
  registers := allRegs.map fun r => (r, regValue s r)
  table := allSymbols.map (tableView s)
  nodes := (List.range s.tree.count.toNat).map (nodeView s)
  hostbuf := s.env.hostbuf
  errs := s.env.responses.map responseErr

/-- R273 with R109: the run has ended and every value the program asserted was the value read. -/
def endedAsAsserted (leavesBytes : Bool) (s : State) : Bool := runEnded leavesBytes s && assertionsHold s

/-- R273: a run that reaches its end with ERR = 1 ended in an error, and its outputs are incomplete. -/
def endedInError (s : State) : Bool := s.latch.err

end Sys2Proof.Machine
end

