-- ==== Sys2Proof/Machine/Script.lean ====
section
/-! DEFINITION. Assembling a command line (30_encoding R108) and the pseudo-instructions of host scripts with their exact
expansions (R109, R110). -/

namespace Sys2Proof.Machine

/-- R108: (OP << 24) | zext_32(byte) for C8, OP << 24 for C0, the word itself for CMDW; `none` for a line R108 does not allow. -/
def assemble : AsmLine → Option Word
  | .plain m => if formOf m = .c0 then some (encode (instrOf m 0#8)) else none
  | .withByte m b => if formOf m = .c8 then (byteLitValue b).map (fun v => encode (instrOf m v)) else none
  | .cmdw w => some w

/-- WR <reg>, <value> (R109). -/
def scriptWrite (r : Reg) (v : Word) : HostOp := .bus (.write (regOffset r) v 0b1111#4)

/-- RD <reg> = v (R109). -/
def scriptAssert (r : Reg) (v : Word) : HostOp := .readAsserting (regOffset r) v

/-- RD <reg> (R109). -/
def scriptRead (r : Reg) : HostOp := .bus (.read (regOffset r) false)

/-- A command word inside a script: WR CMD, <word> then WAIT (R110). -/
def scriptWord (w : Word) : List HostOp := [scriptWrite .cmd w, .wait]

/-- A command line inside a script (R110); a line R108 does not allow has no expansion. -/
def scriptLine (l : AsmLine) : List HostOp :=
  match assemble l with
  | some w => scriptWord w
  | none => []

/-- FADDS b1 ... bn: FADD b1, ..., FADD bn, each with its WAIT (R110). -/
def scriptFadds (bs : List Byte) : List HostOp := bs.flatMap fun b => scriptWord (encode (.fadd b))

/-- PKS b1 ... bn (R110). -/
def scriptPks (bs : List Byte) : List HostOp := bs.flatMap fun b => scriptWord (encode (.pkb b))

/-- DINS b1 ... bn (R110). -/
def scriptDins (bs : List Byte) : List HostOp := bs.flatMap fun b => scriptWord (encode (.din b))

/-- LOADCT s, L, c: WR CT_SEL, s, then WR CT_CODEk, c[32k+31:32k] for k = 0..7, then WR CT_LEN, L (R110). -/
def scriptLoadct (s : Byte) (len : Byte) (code : BitVec 256) : List HostOp :=
  [scriptWrite .ctSel (s.zeroExtend 32)] ++
    [0#3, 1#3, 2#3, 3#3, 4#3, 5#3, 6#3, 7#3].map (fun k => scriptWrite (.ctCode k) (codeWord ⟨len, code⟩ k)) ++
    [scriptWrite .ctLen (len.zeroExtend 32)]

end Sys2Proof.Machine
end

