-- ==== Sys2Proof/Safety.lean ====
section
/-! DEFINITION. The terms the statements use: running a list of commands one after another, what a prefix code is, and the
invariants of 10_state R62 group by group, each as a predicate on one state. -/

namespace Sys2Proof.Machine

/-- The commands of a list executed one after another, each as EngineStep executes it (R89: one at a time, in order). The
room the engine waits for is R122's and no part of Execute; between two commands the host is taken to have drained enough. -/
def execAll : List Instr → State → Host.Outcome State Fault Refusal
  | [], s => .next s
  | i :: is, s =>
    match exec i s with
    | .next t => execAll is t
    | .fault r => .fault r
    | .refused r => .refused r

/-- Symbol s has a code: CT[s].len ≠ 0 (R48). -/
def HasCode (ct : CodeTable) (s : Byte) : Prop := (ctAt ct s).len ≠ 0#8

/-- code(s) (R12). -/
def symCode (ct : CodeTable) (s : Byte) : Bits := codeOf (ctAt ct s)

/-- code(b_1) ++ ... ++ code(b_N) (R195). -/
def messageBits (ct : CodeTable) (bs : List Byte) : Bits := bs.flatMap (symCode ct)

/-- The pair (s, t) violates the prefix property as Validate tests it (R211). -/
def Violates (ct : CodeTable) (s t : Byte) : Prop :=
  s ≠ t ∧ HasCode ct s ∧ HasCode ct t ∧ (ctAt ct s).len.toNat ≤ (ctAt ct t).len.toNat ∧ symCode ct s <+: symCode ct t

/-- "No code is a prefix of another" (R13, R173 (c)). -/
def PrefixFree (ct : CodeTable) : Prop :=
  ∀ s t, s ≠ t → HasCode ct s → HasCode ct t → ¬ symCode ct s <+: symCode ct t

/-- CAND ⊏ code(s) for some symbol s with a code (R213). -/
def StartsACode (ct : CodeTable) (p : Bits) : Prop :=
  ∃ s, HasCode ct s ∧ p <+: symCode ct s ∧ p.length < (symCode ct s).length

/-- Σ_s FREQ[s], as a number (R38). -/
def freqSum (s : State) : Nat := (s.freq.toList.map BitVec.toNat).sum

/-- The number of symbols with FREQ[s] ≠ 0: the n of R150. -/
def symbolsSeen (s : State) : Nat := (allSymbols.filter fun sym => freqAt s sym ≠ 0#32).length

/-- The state after an error that a command raises before it has changed anything: the error entry, then Complete (R240, R241,
R124). -/
def raisedState (code : Byte) (info w : Word) (s : State) : State :=
  { s with
    latch := { err := true, code := code, info := info, cmd := w }
    phase := .idle
    pk := { s.pk with accn := 0#3, accv := 0#7 }
    dec := { s.dec with cand := [] }
    slot := none
    cmdDone := true }

/-- R62 (a), R38: TOTAL is the sum of the frequencies. -/
def TotalInv (s : State) : Prop := s.total.toNat = freqSum s

/-- R62 (d), R6: OUTQ never holds more than OUTQ_DEPTH bytes, and OUTQ_DEPTH is a legal depth. -/
def OutqInv (s : State) : Prop :=
  Config.minDepth ≤ s.cfg.outqDepth ∧ s.cfg.outqDepth ≤ Config.maxDepth ∧ s.outq.length ≤ s.cfg.outqDepth

/-- R62 (e): NODECNT is 0 or 2n - 1 for an n in 1..256. -/
def NodeCountInv (s : State) : Prop :=
  s.tree.count.toNat = 0 ∨ ∃ n, 1 ≤ n ∧ n ≤ 256 ∧ s.tree.count.toNat = 2 * n - 1

/-- R62 (b), (c), (g), (h), R52, R54, R57 and R213: what holds of the sessions. -/
structure SessionInv (s : State) : Prop where
  /-- R62 (b): ACCN = 0 whenever PHASE ≠ PACK. -/
  pending_in_pack : s.phase ≠ .pack → s.pk.accn = 0#3
  /-- R52: ACCV[6:ACCN] = 0. -/
  accv_fits : s.pk.accv.toNat < 2 ^ s.pk.accn.toNat
  /-- R54: PKBITS ≤ 255 · PKSYMS. -/
  bits_bounded : s.pk.bits.toNat ≤ 255 * s.pk.syms.toNat
  /-- R62 (c): CAND is empty whenever PHASE ≠ DECODE. -/
  cand_in_decode : s.phase ≠ .decode → s.dec.cand = []
  /-- R62 (g): if ERR = 1 then PHASE = IDLE. -/
  error_is_idle : s.latch.err = true → s.phase = .idle
  /-- R57: DOUTCNT ≤ DCNT while PHASE = DECODE. -/
  decoded_within : s.phase = .decode → s.dec.doutcnt.toNat ≤ s.dec.dcnt.toNat
  /-- R212, R88: a session that must produce bytes runs on a validated table. -/
  table_validated : s.phase = .decode → s.dec.dcnt ≠ 0#32 → validate s.ct = none
  /-- R213: a pending candidate is a proper prefix of a code. -/
  cand_starts_code : s.dec.cand ≠ [] → StartsACode s.ct s.dec.cand
  /-- R62 (h): |CAND| < MAXLEN whenever CAND is non-empty. -/
  cand_short : s.dec.cand ≠ [] → s.dec.cand.length < longestCode s.ct

/-- A run that is safe in the terms of the spec: the invariants of R62 hold of its state. -/
structure Inv (s : State) : Prop where
  total : TotalInv s
  outq : OutqInv s
  nodes : NodeCountInv s
  session : SessionInv s

end Sys2Proof.Machine
end

