-- ==== Sys2Proof/Certificates/Slice0/Obligations.lean ====
section
/-! DEFINITION. The statements for the provers. Each docstring names the rule of spec/ it comes from. -/

open Sys2Proof Sys2Proof.Machine

/-! ### Encoding -/

/-- 30_encoding R111: the worked encodings, and that each word decodes to its command. -/
def Obligations.WorkedEncodings : Prop :=
  encode (.fadd 0x61#8) = 0x11000061#32 ∧ encode (.pkb 0xFF#8) = 0x310000FF#32 ∧ encode (.din 0xE2#8) = 0x410000E2#32 ∧
  encode .build = 0x20000000#32 ∧ encode .pkend = 0x32000000#32 ∧ encode .dend = 0x42000000#32 ∧
  decode 0x11000061#32 = .ok (.fadd 0x61#8) ∧ decode 0x310000FF#32 = .ok (.pkb 0xFF#8) ∧
  decode 0x410000E2#32 = .ok (.din 0xE2#8) ∧ decode 0x20000000#32 = .ok .build ∧ decode 0x32000000#32 = .ok .pkend ∧
  decode 0x42000000#32 = .ok .dend

/-- 30_encoding R100 to R104: a word decodes to a command exactly when it is that command's word, every operand at every
value. So decode of encode i is i, and no second word is read as i. -/
def Obligations.DecodeInvertsEncode : Prop :=
  ∀ (w : Word) (i : Instr), decode w = .ok i ↔ w = encode i

/-- 30_encoding R105, 60_exceptions R231: the illegal words are exactly those of clauses (a), (b), (c), and executing one with
ERR = 0 raises ILLEGAL_CMD with ERRINFO = 0 and ERRCMD = w and does nothing else besides the error entry. -/
def Obligations.IllegalWordsRaise : Prop :=
  ∀ w : Word,
    ((∃ e, decode w = .error e) ↔
      (w.extractLsb' 24 8 ∉ [0x00#8, 0x01#8, 0x02#8, 0x10#8, 0x11#8, 0x20#8, 0x21#8, 0x30#8, 0x31#8, 0x32#8, 0x40#8, 0x41#8, 0x42#8]) ∨
      (w.extractLsb' 8 16 ≠ 0#16) ∨
      (w.extractLsb' 24 8 ∉ [0x11#8, 0x31#8, 0x41#8] ∧ w.extractLsb' 0 8 ≠ 0#8)) ∧
    ∀ s : State, s.slot = some w → s.latch.err = false → (∃ e, decode w = .error e) →
      execWord w s = .next (raisedState 0x01#8 0#32 w s)

/-! ### The engine's step -/

/-- 40_control R121, R123: on the engine's turn, with the word's room in OUTQ, one step is exec of the command the word in
SLOT decodes to; the only thing step adds is that a named turn is used up. That turns are named in a list, and that with no
turn named an enabled engine moves before the host, is the model's choice (log 1). -/
def Obligations.StepRunsDecodedCommand : Prop :=
  ∀ (s : State) (w : Word) (i : Instr), s.slot = some w → decode w = .ok i →
    (s.latch.err = true ∨ s.outq.length + need (wordOp w) ≤ s.cfg.outqDepth) →
    (s.env.turns = [] → step s = exec i s) ∧
    (∀ rest, s.env.turns = .engine :: rest → step s = exec i { s with env := { s.env with turns := rest } })

/-- 40_control R121, R122, 10_state R26: NEED of every opcode; an empty OUTQ of a legal depth has room for every word; with no
command, or with ERR = 0 and less room than NEED, the engine has no step, and STATUS.HELD reads 1 in the second case only. That
a turn named for an engine without a step is a next state in which only the turn is used up is the model's choice (logs 1, 2). -/
def Obligations.EngineWaits : Prop :=
  need 0x31#8 = 32 ∧ need 0x41#8 = 8 ∧ need 0x32#8 = 1 ∧
  (∀ op : Byte, op ≠ 0x31#8 → op ≠ 0x41#8 → op ≠ 0x32#8 → need op = 0) ∧
  (∀ (s : State) (w : Word), s.slot = some w → s.outq = [] → 32 ≤ s.cfg.outqDepth → engineReady s = true) ∧
  ∀ (s : State) (rest : List Turn), s.env.turns = .engine :: rest →
    (s.slot = none → step s = .next { s with env := { s.env with turns := rest } } ∧ (status s).getLsbD 5 = false) ∧
    (∀ w, s.slot = some w → s.latch.err = false → s.cfg.outqDepth < s.outq.length + need (wordOp w) →
      step s = .next { s with env := { s.env with turns := rest } } ∧ (status s).getLsbD 5 = true)

/-- 40_control R122, 10_state R36: the value of NEED bounds what a command pushes, and pushes only go to the tail. -/
def Obligations.PushesWithinNeed : Prop :=
  ∀ (i : Instr) (s t : State), i ≠ .srst → exec i s = .next t →
    ∃ bytes, t.outq = s.outq ++ bytes ∧ bytes.length ≤ need (wordOp (encode i))

/-- 40_control R125, 60_exceptions R232: the phases of each command, and that a command outside them raises BAD_PHASE with
the phase as detail, closes the session and does nothing else. -/
def Obligations.BadPhaseAborts : Prop :=
  (∀ p, allowed .nop p = true ∧ allowed .srst p = true ∧ allowed .errclr p = true) ∧
  (∀ p, (allowed .fclr p = true ↔ p = .idle) ∧ (allowed .fadd p = true ↔ p = .idle) ∧ (allowed .build p = true ↔ p = .idle) ∧
    (allowed .ctclr p = true ↔ p = .idle) ∧ (allowed .pkstart p = true ↔ p = .idle) ∧ (allowed .darm p = true ↔ p = .idle)) ∧
  (∀ p, (allowed .pkb p = true ↔ p = .pack) ∧ (allowed .pkend p = true ↔ p = .pack)) ∧
  (∀ p, (allowed .din p = true ↔ p = .decode) ∧ (allowed .dend p = true ↔ p = .decode)) ∧
  ∀ (i : Instr) (s : State), s.latch.err = false → allowed i.mnemonic s.phase = false →
    exec i s = .next (raisedState 0x02#8
      (match s.phase with | .idle => 0#32 | .pack => 1#32 | .decode => 2#32) (encode i) s)

/-- 60_exceptions R242, R243, 40_control R121: while ERR = 1 a word other than NOP, SRST and ERRCLR, legal or not, is discarded:
nothing changes but Complete, and it waits for no room in OUTQ; and no word overwrites the latch: it stays as it is or is
cleared. So on a named engine turn, which is used up, and with no turn named, where the model lets the engine move (log 1). -/
def Obligations.ErrorStateDiscards : Prop :=
  ∀ (s : State) (w : Word) (rest : List Turn), s.latch.err = true → s.slot = some w →
    (s.env.turns = .engine :: rest ∨ (s.env.turns = [] ∧ rest = [])) →
    (w ≠ 0x00000000#32 → w ≠ 0x01000000#32 → w ≠ 0x02000000#32 →
      step s = .next { s with slot := none, cmdDone := true, env := { s.env with turns := rest } }) ∧
    ∃ t, step s = .next t ∧ t.slot = none ∧
      (t.latch = s.latch ∨ t.latch = { err := false, code := 0#8, info := 0#32, cmd := 0#32 })

/-- 60_exceptions R240, R241: whatever command raises an error, the latch holds one of the eight codes and the failing word,
PHASE is IDLE, the pending packer and decoder bits are gone, and nothing else has changed, except that a DIN keeps the bytes
it pushed before its dead end and counts them in DOUTCNT. -/
def Obligations.ErrorsArePrecise : Prop :=
  ∀ (i : Instr) (s t : State), s.latch.err = false → exec i s = .next t → t.latch.err = true →
    1 ≤ t.latch.code.toNat ∧ t.latch.code.toNat ≤ 8 ∧ t.latch.cmd = encode i ∧
    ∃ bytes, t =
      { s with
        latch := t.latch
        phase := .idle
        pk := { s.pk with accn := 0#3, accv := 0#7 }
        dec := { s.dec with cand := [], doutcnt := t.dec.doutcnt }
        outq := s.outq ++ bytes
        slot := none
        cmdDone := true } ∧
      t.dec.doutcnt = s.dec.doutcnt + BitVec.ofNat 32 bytes.length ∧
      ((∀ b, i ≠ .din b) → bytes = [])

/-! ### Control commands -/

/-- 40_control R126: NOP changes nothing but Complete, in every phase, with ERR = 0 or 1. -/
def Obligations.NopOnlyCompletes : Prop :=
  encode .nop = 0x00000000#32 ∧ ∀ s : State, exec .nop s = .next { s with slot := none, cmdDone := true }

/-- 40_control R127, R124, 70_reset R261: SRST, in every phase and while ERR = 1, puts every piece of the block's state at its
reset value and sets no CMDDONE; the `rst` event leaves the same block state and drops a word in SLOT. NODE and HEAP become
unspecified, which NODECNT = 0 hides. The parameter and the surroundings are no state of the block. That `rst` comes as a named
turn, which is used up, is the model's choice (log 1). -/
def Obligations.SrstAndRstReset : Prop :=
  encode .srst = 0x01000000#32 ∧
  (∀ s : State, ∃ t, exec .srst s = .next t ∧
    t = { State.reset with
      cfg := s.cfg
      tree := { State.reset.tree with node := t.tree.node }
      heap := t.heap
      env := { s.env with draws := t.env.draws } } ∧
    (s.cfg.outqDepth ≠ 0 → status t = 0#32) ∧ intPend t = 0#32) ∧
  ∀ (s : State) (rest : List Turn), s.env.turns = .rst :: rest → ∃ t, step s = .next t ∧
    t = { State.reset with
      cfg := s.cfg
      tree := { State.reset.tree with node := t.tree.node }
      heap := t.heap
      env := { s.env with turns := rest, draws := t.env.draws } }

/-- 40_control R128: ERRCLR clears the latch and BERR and leaves everything else, in every phase. -/
def Obligations.ErrclrClears : Prop :=
  encode .errclr = 0x02000000#32 ∧
  ∀ s : State, exec .errclr s = .next
    { s with
      latch := { err := false, code := 0#8, info := 0#32, cmd := 0#32 }
      berr := false
      slot := none
      cmdDone := true }

/-- 10_state R61: the state after reset; the values of NODE and HEAP, which R61 leaves open, are not named. -/
def Obligations.ResetValues : Prop :=
  let s := State.reset
  s.slot = none ∧ s.phase = .idle ∧ s.berr = false ∧
  s.latch.err = false ∧ s.latch.code = 0#8 ∧ s.latch.info = 0#32 ∧ s.latch.cmd = 0#32 ∧
  s.inten = 0#3 ∧ s.cmdDone = false ∧ s.outq = [] ∧ (∀ sym, freqAt s sym = 0#32) ∧ s.total = 0#32 ∧
  s.tree.root = 0#9 ∧ s.tree.count = 0#9 ∧ (∀ sym, (ctAt s.ct sym).len = 0#8 ∧ (ctAt s.ct sym).code = 0#256) ∧
  s.ctSel = 0#8 ∧ s.nodeSel = 0#9 ∧ s.pk.accn = 0#3 ∧ s.pk.accv = 0#7 ∧ s.pk.syms = 0#32 ∧ s.pk.bits = 0#64 ∧
  s.pk.last = 0#4 ∧ s.dec.dcnt = 0#32 ∧ s.dec.doutcnt = 0#32 ∧ s.dec.cand = [] ∧
  regValue s .nsym = 0#32 ∧ regValue s .maxlen = 0#32 ∧ status s = 0#32 ∧ irq s = false

/-! ### Frequency counter -/

/-- 41_frequency R141: FCLR clears every FREQ[s] and TOTAL and nothing else. -/
def Obligations.FclrClears : Prop :=
  ∀ s : State, s.latch.err = false → s.phase = .idle →
    ∃ t, exec .fclr s = .next t ∧ (∀ sym, freqAt t sym = 0#32) ∧ t.total = 0#32 ∧
      t = { s with freq := t.freq, total := t.total, slot := none, cmdDone := true }

/-- 41_frequency R142, 60_exceptions R234: FADD counts one occurrence, or raises OVERFLOW at TOTAL = 2^32 - 1 with nothing
changed. -/
def Obligations.FaddCounts : Prop :=
  ∀ (s : State) (sym : Byte), s.latch.err = false → s.phase = .idle →
    (s.total.toNat ≠ 2 ^ 32 - 1 →
      ∃ t, exec (.fadd sym) s = .next t ∧ freqAt t sym = freqAt s sym + 1#32 ∧
        (∀ u, u ≠ sym → freqAt t u = freqAt s u) ∧ t.total = s.total + 1#32 ∧
        t = { s with freq := t.freq, total := t.total, slot := none, cmdDone := true }) ∧
    (s.total.toNat = 2 ^ 32 - 1 →
      exec (.fadd sym) s = .next (raisedState 0x04#8 (sym.zeroExtend 32) (encode (.fadd sym)) s))

/-- 41_frequency R143: after FCLR and FADD b_1 ... FADD b_N, N ≤ 2^32 - 1, FREQ[s] is the number of occurrences of s and
TOTAL is N, with no error, whatever the order of the bytes; for a larger N some command of the list raises an error. -/
def Obligations.FrequenciesAreOccurrenceCounts : Prop :=
  ∀ (s : State) (bs : List Byte), s.latch.err = false → s.phase = .idle →
    (bs.length ≤ 2 ^ 32 - 1 →
      ∃ t, execAll (.fclr :: bs.map .fadd) s = .next t ∧ t.latch.err = false ∧ t.total.toNat = bs.length ∧
        ∀ sym, (freqAt t sym).toNat = bs.count sym) ∧
    (2 ^ 32 ≤ bs.length → ∃ t, execAll (.fclr :: bs.map .fadd) s = .next t ∧ t.latch.err = true)

/-! ### Tree builder and code generator -/

/-- 42_tree R159, 60_exceptions R233: BUILD with every FREQ[s] = 0 raises EMPTY and changes no tree or table state. -/
def Obligations.BuildOfNothingRaisesEmpty : Prop :=
  ∀ s : State, s.latch.err = false → s.phase = .idle → (∀ sym, freqAt s sym = 0#32) →
    exec .build s = .next (raisedState 0x03#8 0#32 0x20000000#32 s)

/-- 42_tree R150, R158, R160: a BUILD over n ≥ 1 symbols completes, with NODECNT = 2n - 1 and ROOT = 2n - 2, and writes
nothing but NODE, ROOT, NODECNT, HEAP and CT (and the model's counter of free values). -/
def Obligations.BuildCompletes : Prop :=
  ∀ s : State, s.latch.err = false → s.phase = .idle → (∃ sym, freqAt s sym ≠ 0#32) →
    ∃ t, exec .build s = .next t ∧ 1 ≤ symbolsSeen s ∧ symbolsSeen s ≤ 256 ∧
      t.tree.count.toNat = 2 * symbolsSeen s - 1 ∧ t.tree.root.toNat = 2 * symbolsSeen s - 2 ∧
      t = { s with
        tree := t.tree
        heap := t.heap
        ct := t.ct
        env := { s.env with draws := t.env.draws }
        slot := none
        cmdDone := true }

/-- 42_tree R153: on a queue with an entry ExtractMin removes and returns the entry with the smallest key, weight first, then
index; an empty queue has none. -/
def Obligations.ExtractMinIsSmallest : Prop :=
  extractMin [] = none ∧ ∀ q : List Key, q ≠ [] → ∃ m rest, extractMin q = some (m, rest) ∧
    (m :: rest).Perm q ∧ ∀ k ∈ q, m.w.toNat < k.w.toNat ∨ (m.w.toNat = k.w.toNat ∧ m.idx.toNat ≤ k.idx.toNat)

/-- 42_tree R151: the leaves are NODE[0..n-1], one per symbol with FREQ ≠ 0, in ascending symbol order, each with the
symbol's frequency as weight; the nodes after them are internal. -/
def Obligations.LeavesInSymbolOrder : Prop :=
  ∀ s t : State, s.latch.err = false → s.phase = .idle → (∃ sym, freqAt s sym ≠ 0#32) → exec .build s = .next t →
    (∀ i, i < symbolsSeen s → (nodeAt t.tree.node i).leaf = true ∧
      (nodeAt t.tree.node i).w = freqAt s (nodeAt t.tree.node i).sym ∧ (nodeAt t.tree.node i).w ≠ 0#32) ∧
    (∀ i j, i < j → j < symbolsSeen s → (nodeAt t.tree.node i).sym.toNat < (nodeAt t.tree.node j).sym.toNat) ∧
    (∀ sym, freqAt s sym ≠ 0#32 → ∃ i, i < symbolsSeen s ∧ (nodeAt t.tree.node i).sym = sym) ∧
    (∀ i, symbolsSeen s ≤ i → i < t.tree.count.toNat → (nodeAt t.tree.node i).leaf = false)

/-- 42_tree R152, R154, R157: the tree BUILD leaves. Every internal node has two different children of smaller index, the
left one with the smaller key, and its weight is their exact sum; every node but ROOT is the child of exactly one internal
node; and the root's weight is TOTAL. -/
def Obligations.BuildMakesWeightedTree : Prop :=
  ∀ s t : State, TotalInv s → s.latch.err = false → s.phase = .idle → (∃ sym, freqAt s sym ≠ 0#32) →
    exec .build s = .next t →
    (∀ i, i < t.tree.count.toNat → (nodeAt t.tree.node i).leaf = false →
      let n := nodeAt t.tree.node i
      let l := nodeAt t.tree.node n.left.toNat
      let r := nodeAt t.tree.node n.right.toNat
      n.left ≠ n.right ∧ n.left.toNat < i ∧ n.right.toNat < i ∧ n.w.toNat = l.w.toNat + r.w.toNat ∧
      (l.w.toNat < r.w.toNat ∨ (l.w.toNat = r.w.toNat ∧ n.left.toNat < n.right.toNat))) ∧
    (∀ i, i < t.tree.count.toNat → i ≠ t.tree.root.toNat →
      ∃ p, (p < t.tree.count.toNat ∧ (nodeAt t.tree.node p).leaf = false ∧
          ((nodeAt t.tree.node p).left.toNat = i ∨ (nodeAt t.tree.node p).right.toNat = i)) ∧
        ∀ q, q < t.tree.count.toNat → (nodeAt t.tree.node q).leaf = false →
          ((nodeAt t.tree.node q).left.toNat = i ∨ (nodeAt t.tree.node q).right.toNat = i) → q = p) ∧
    (nodeAt t.tree.node t.tree.root.toNat).w = s.total

/-- 42_tree R161: two BUILDs over the same FREQ leave the same NODE[0..NODECNT-1], ROOT, NODECNT and CT, whatever else the
two states hold. -/
def Obligations.BuildDependsOnFreqOnly : Prop :=
  ∀ s1 s2 t1 t2 : State, s1.freq = s2.freq → (∃ sym, freqAt s1 sym ≠ 0#32) →
    s1.latch.err = false → s2.latch.err = false → s1.phase = .idle → s2.phase = .idle →
    exec .build s1 = .next t1 → exec .build s2 = .next t2 →
    t1.tree.root = t2.tree.root ∧ t1.tree.count = t2.tree.count ∧ t1.ct = t2.ct ∧
    ∀ i, i < t1.tree.count.toNat → nodeAt t1.tree.node i = nodeAt t2.tree.node i

/-- 43_code_table R171, 42_tree R155: with one present symbol ROOT is 0, NODECNT is 1 and its code is "0"; every other
symbol has none. -/
def Obligations.SingleSymbolGetsZero : Prop :=
  ∀ (s : State) (sym : Byte), s.latch.err = false → s.phase = .idle → freqAt s sym ≠ 0#32 →
    (∀ u, u ≠ sym → freqAt s u = 0#32) →
    ∃ t, exec .build s = .next t ∧ t.tree.root = 0#9 ∧ t.tree.count = 1#9 ∧
      (ctAt t.ct sym).len = 1#8 ∧ (ctAt t.ct sym).code = 0#256 ∧ symCode t.ct sym = [false] ∧
      ∀ u, u ≠ sym → (ctAt t.ct u).len = 0#8

/-- 43_code_table R173 (a), (b), R172, R174: exactly the symbols with FREQ ≠ 0 have a code after BUILD, of length 1 to n - 1
for n ≥ 2; a symbol without one has the zero entry, and no stored bit stands above a code. -/
def Obligations.BuildCodesTheSeenSymbols : Prop :=
  ∀ s t : State, s.latch.err = false → s.phase = .idle → (∃ sym, freqAt s sym ≠ 0#32) → exec .build s = .next t →
    (∀ sym, HasCode t.ct sym ↔ freqAt s sym ≠ 0#32) ∧
    (∀ sym, HasCode t.ct sym → 2 ≤ symbolsSeen s → (ctAt t.ct sym).len.toNat ≤ symbolsSeen s - 1) ∧
    (∀ sym, freqAt s sym = 0#32 → ctAt t.ct sym = { len := 0#8, code := 0#256 }) ∧
    (∀ sym, (ctAt t.ct sym).code.toNat < 2 ^ (ctAt t.ct sym).len.toNat) ∧
    regValue t .nsym = BitVec.ofNat 32 (symbolsSeen s)

/-- 43_code_table R173 (c): the table BUILD leaves is a prefix code, and Validate accepts it (45_decoder R211). -/
def Obligations.BuildMakesPrefixCode : Prop :=
  ∀ s t : State, s.latch.err = false → s.phase = .idle → (∃ sym, freqAt s sym ≠ 0#32) → exec .build s = .next t →
    PrefixFree t.ct ∧ validate t.ct = none

/-- 43_code_table R173 (d): for n ≥ 2 every bit string of length ≥ MAXLEN has a code as a prefix. -/
def Obligations.BuildCodeIsComplete : Prop :=
  ∀ (s t : State) (p : Bits), s.latch.err = false → s.phase = .idle → 2 ≤ symbolsSeen s → exec .build s = .next t →
    longestCode t.ct ≤ p.length → ∃ sym, HasCode t.ct sym ∧ symCode t.ct sym <+: p

/-- 43_code_table R170: the code of a leaf is its path: following an internal node's left child on a 0 bit and its right
child on a 1 bit from ROOT along code(s) ends at the leaf of s, for n ≥ 2. -/
def Obligations.CodesArePaths : Prop :=
  ∀ (s t : State) (sym : Byte), s.latch.err = false → s.phase = .idle → 2 ≤ symbolsSeen s → exec .build s = .next t →
    freqAt s sym ≠ 0#32 →
    let stop := (symCode t.ct sym).foldl
      (fun (i : Nat) bit => if bit then (nodeAt t.tree.node i).right.toNat else (nodeAt t.tree.node i).left.toNat)
      t.tree.root.toNat
    (nodeAt t.tree.node stop).leaf = true ∧ (nodeAt t.tree.node stop).sym = sym

/-- 43_code_table R175: CTCLR clears every entry and nothing else; NSYM and MAXLEN then read 0. -/
def Obligations.CtclrClears : Prop :=
  ∀ s : State, s.latch.err = false → s.phase = .idle →
    ∃ t, exec .ctclr s = .next t ∧ (∀ sym, ctAt t.ct sym = { len := 0#8, code := 0#256 }) ∧
      regValue t .nsym = 0#32 ∧ regValue t .maxlen = 0#32 ∧
      t = { s with ct := t.ct, slot := none, cmdDone := true }

/-! ### Packer -/

/-- 44_packer R190: PKSTART clears the packer registers and opens PACK, whatever CT and OUTQ hold. -/
def Obligations.PkstartOpens : Prop :=
  ∀ s : State, s.latch.err = false → s.phase = .idle →
    exec .pkstart s = .next
      { s with
        pk := { accn := 0#3, accv := 0#7, syms := 0#32, bits := 0#64, last := 0#4 }
        phase := .pack
        slot := none
        cmdDone := true }

/-- 44_packer R191, R193, 60_exceptions R234, R235, R245: PKB of a symbol without a code raises NO_CODE, also at PKSYMS =
2^32 - 1; with a code it raises OVERFLOW there; nothing is appended in either case. Otherwise PKB appends the symbol's code to
the pending bits, pushes every whole byte, first bit as bit 7, and keeps the rest pending; nothing else changes but PKSYMS and
PKBITS. -/
def Obligations.PkbAppendsCode : Prop :=
  ∀ (s : State) (sym : Byte), s.latch.err = false → s.phase = .pack →
    (¬ HasCode s.ct sym → exec (.pkb sym) s = .next (raisedState 0x05#8 (sym.zeroExtend 32) (encode (.pkb sym)) s)) ∧
    (HasCode s.ct sym → s.pk.syms.toNat = 2 ^ 32 - 1 →
      exec (.pkb sym) s = .next (raisedState 0x04#8 (sym.zeroExtend 32) (encode (.pkb sym)) s)) ∧
    (HasCode s.ct sym → s.pk.syms.toNat ≠ 2 ^ 32 - 1 → ∃ t bytes, exec (.pkb sym) s = .next t ∧
      bytes.flatMap bitsOfByte ++ pendingBits t.pk = pendingBits s.pk ++ symCode s.ct sym ∧
      bytes.length = (s.pk.accn.toNat + (ctAt s.ct sym).len.toNat) / 8 ∧
      t.pk.accn.toNat = (s.pk.accn.toNat + (ctAt s.ct sym).len.toNat) % 8 ∧
      t.pk.accv.toNat < 2 ^ t.pk.accn.toNat ∧
      t = { s with
        outq := s.outq ++ bytes
        pk := { s.pk with
          accn := t.pk.accn
          accv := t.pk.accv
          syms := s.pk.syms + 1#32
          bits := s.pk.bits + (ctAt s.ct sym).len.zeroExtend 64 }
        slot := none
        cmdDone := true })

/-- 44_packer R192, R194: PKEND pushes the pending bits padded with zeros at the low end, or nothing when none is pending,
sets PKLAST, clears the accumulator and closes PACK; PKSYMS and PKBITS stay. -/
def Obligations.PkendFlushes : Prop :=
  ∀ s : State, s.latch.err = false → s.phase = .pack →
    ∃ t bytes, exec .pkend s = .next t ∧
      (s.pk.accn = 0#3 → bytes = [] ∧ t.pk.last = if s.pk.bits = 0#64 then 0#4 else 8#4) ∧
      (s.pk.accn ≠ 0#3 → ∃ b, bytes = [b] ∧
        bitsOfByte b = pendingBits s.pk ++ List.replicate (8 - s.pk.accn.toNat) false ∧
        t.pk.last.toNat = s.pk.accn.toNat) ∧
      t = { s with
        outq := s.outq ++ bytes
        pk := { s.pk with accn := 0#3, accv := 0#7, last := t.pk.last }
        phase := .idle
        slot := none
        cmdDone := true }

/-- 44_packer R195: after PKSTART, PKB s_1 ... s_N and PKEND with no error, the bytes pushed are the concatenated codes and
zero padding cut into bytes, and PKSYMS, PKBITS and PKLAST count them. The commands run one after another by `execAll`, which
does not wait for room in OUTQ (log 11); the bytes pushed are those a host that drains would read. -/
def Obligations.PackingSessionResult : Prop :=
  ∀ (s : State) (bs : List Byte), s.latch.err = false → s.phase = .idle → (∀ b ∈ bs, HasCode s.ct b) →
    bs.length ≤ 2 ^ 32 - 1 →
    ∃ t bytes, execAll (.pkstart :: bs.map .pkb ++ [.pkend]) s = .next t ∧ t.outq = s.outq ++ bytes ∧
      bytes.flatMap bitsOfByte = messageBits s.ct bs ++ List.replicate ((8 - t.pk.bits.toNat % 8) % 8) false ∧
      bytes.length = (t.pk.bits.toNat + 7) / 8 ∧ t.pk.syms.toNat = bs.length ∧
      t.pk.bits.toNat = (bs.map fun b => (symCode s.ct b).length).sum ∧
      t.pk.last.toNat = (if t.pk.bits.toNat = 0 then 0 else (t.pk.bits.toNat - 1) % 8 + 1) ∧
      t.latch.err = false ∧ t.phase = .idle ∧ t.ct = s.ct

/-! ### Decoder -/

/-- 45_decoder R211: Validate fails with 0x80000000 on an empty table, with the first violating pair (s, t) in order on a
table that has one, and accepts every other table. -/
def Obligations.ValidateReports : Prop :=
  ∀ ct : CodeTable,
    ((∀ s, ¬ HasCode ct s) → validate ct = some 0x80000000#32) ∧
    (∀ s t, Violates ct s t →
      (∀ s' t', Violates ct s' t' → s.toNat < s'.toNat ∨ (s = s' ∧ t.toNat ≤ t'.toNat)) →
      validate ct = some (s.zeroExtend 32 ||| (t.zeroExtend 32 <<< 8))) ∧
    ((∃ s, HasCode ct s) → (∀ s t, ¬ Violates ct s t) → validate ct = none)

/-- 45_decoder R212, 60_exceptions R236: DARM opens DECODE when DCNT = 0 or Validate accepts CT, and raises CORRUPT_TABLE with
Validate's detail otherwise. -/
def Obligations.DarmArms : Prop :=
  ∀ s : State, s.latch.err = false → s.phase = .idle →
    (s.dec.dcnt = 0#32 ∨ validate s.ct = none →
      exec .darm s = .next
        { s with
          dec := { s.dec with cand := [], doutcnt := 0#32 }
          phase := .decode
          slot := none
          cmdDone := true }) ∧
    (∀ x, s.dec.dcnt ≠ 0#32 → validate s.ct = some x → exec .darm s = .next (raisedState 0x06#8 x 0x40000000#32 s))

/-- 45_decoder R213, R214, R216: with DOUTCNT = DCNT a DIN does nothing but complete. Before that, the candidate and the
byte's bits read as codes of a validated table: where they are the codes of syms followed by r, with at most DCNT bytes in all,
syms is pushed and counted, and r stays as the candidate, or, once DOUTCNT = DCNT is reached, is ignored. -/
def Obligations.DinDecodes : Prop :=
  ∀ (s : State) (b : Byte), s.latch.err = false → s.phase = .decode →
    (s.dec.doutcnt = s.dec.dcnt → exec (.din b) s = .next { s with slot := none, cmdDone := true }) ∧
    (∀ (syms : List Byte) (r : Bits), validate s.ct = none → (s.dec.cand = [] ∨ StartsACode s.ct s.dec.cand) →
      s.dec.doutcnt.toNat < s.dec.dcnt.toNat → (∀ x ∈ syms, HasCode s.ct x) →
      s.dec.cand ++ bitsOfByte b = messageBits s.ct syms ++ r →
      (s.dec.doutcnt.toNat + syms.length < s.dec.dcnt.toNat → (r = [] ∨ StartsACode s.ct r) →
        exec (.din b) s = .next
          { s with
            outq := s.outq ++ syms
            dec := { s.dec with doutcnt := s.dec.doutcnt + BitVec.ofNat 32 syms.length, cand := r }
            slot := none
            cmdDone := true }) ∧
      (s.dec.doutcnt.toNat + syms.length = s.dec.dcnt.toNat →
        exec (.din b) s = .next
          { s with
            outq := s.outq ++ syms
            dec := { s.dec with doutcnt := s.dec.dcnt, cand := [] }
            slot := none
            cmdDone := true }))

/-- 60_exceptions R237, R241, 45_decoder R213: at the first bit after which no code can match, DIN raises DEAD_END with
DOUTCNT as detail; the bytes decoded before it stay in OUTQ and in DOUTCNT. -/
def Obligations.DinDeadEnd : Prop :=
  ∀ (s : State) (b : Byte) (syms : List Byte) (p : Bits) (bit : Bool) (q : Bits), s.latch.err = false →
    s.phase = .decode → validate s.ct = none → (s.dec.cand = [] ∨ StartsACode s.ct s.dec.cand) →
    (∀ x ∈ syms, HasCode s.ct x) → s.dec.cand ++ bitsOfByte b = messageBits s.ct syms ++ p ++ bit :: q →
    (p = [] ∨ StartsACode s.ct p) → ¬ StartsACode s.ct (p ++ [bit]) → (∀ x, HasCode s.ct x → symCode s.ct x ≠ p ++ [bit]) →
    s.dec.doutcnt.toNat + syms.length < s.dec.dcnt.toNat →
    ∃ t, exec (.din b) s = .next t ∧
      t.latch = { err := true, code := 0x07#8, info := s.dec.doutcnt + BitVec.ofNat 32 syms.length, cmd := encode (.din b) } ∧
      t = { s with
        latch := t.latch
        phase := .idle
        pk := { s.pk with accn := 0#3, accv := 0#7 }
        outq := s.outq ++ syms
        dec := { s.dec with doutcnt := s.dec.doutcnt + BitVec.ofNat 32 syms.length, cand := [] }
        slot := none
        cmdDone := true }

/-- 45_decoder R215, 60_exceptions R238: DEND closes the session, or raises UNDERRUN when fewer than DCNT bytes were decoded. -/
def Obligations.DendCloses : Prop :=
  ∀ s : State, s.latch.err = false → s.phase = .decode →
    (s.dec.dcnt.toNat ≤ s.dec.doutcnt.toNat →
      exec .dend s = .next
        { s with dec := { s.dec with cand := [] }, phase := .idle, slot := none, cmdDone := true }) ∧
    (s.dec.doutcnt.toNat < s.dec.dcnt.toNat →
      exec .dend s = .next (raisedState 0x08#8 s.dec.doutcnt 0x42000000#32 s))

/-- 45_decoder R217: what a packing session makes of a byte sequence over a validated table, a decoding session with
DCNT = PKSYMS turns back into that sequence, and no command of either raises an error. The commands run one after another by
`execAll`, which does not wait for room in OUTQ (log 11). -/
def Obligations.RoundTrip : Prop :=
  ∀ (s : State) (bs : List Byte), s.latch.err = false → s.phase = .idle → validate s.ct = none →
    (∀ b ∈ bs, HasCode s.ct b) → bs.length ≤ 2 ^ 32 - 1 →
    ∃ t u bytes, execAll (.pkstart :: bs.map .pkb ++ [.pkend]) s = .next t ∧ t.outq = s.outq ++ bytes ∧
      execAll (.darm :: bytes.map .din ++ [.dend]) { t with dec := { t.dec with dcnt := t.pk.syms } } = .next u ∧
      u.outq = t.outq ++ bs ∧ u.latch.err = false ∧ u.phase = .idle

/-! ### The register window -/

/-- 20_memory R82, R86: an access that is not an aligned full word gets err = 1, a read rdata = 0, and changes only BERR. -/
def Obligations.NarrowOrMisalignedIsBusError : Prop :=
  ∀ (s : State) (addr : BitVec 12),
    (∀ narrow, addr.toNat % 4 ≠ 0 ∨ narrow = true → access (.read addr narrow) s = (.read 0#32 true, { s with berr := true })) ∧
    (∀ v strb, addr.toNat % 4 ≠ 0 ∨ strb ≠ 0b1111#4 → access (.write addr v strb) s = (.write true, { s with berr := true }))

/-- 10_state R23: the offset of every register; a register is found at its offset, all offsets are word-aligned, and no two
registers share one. -/
def Obligations.RegisterMap : Prop :=
  (∀ p ∈ [(Reg.id, 0x000), (.param, 0x004), (.status, 0x008), (.cmd, 0x00C), (.errcode, 0x010), (.errinfo, 0x014),
      (.errcmd, 0x018), (.inten, 0x01C), (.intpend, 0x020), (.dataOut, 0x024), (.outcnt, 0x028), (.total, 0x030),
      (.nsym, 0x034), (.maxlen, 0x038), (.root, 0x03C), (.nodecnt, 0x040), (.pksyms, 0x050), (.pkbitsLo, 0x054),
      (.pkbitsHi, 0x058), (.pkacc, 0x05C), (.pklast, 0x060), (.dcnt, 0x070), (.doutcnt, 0x074), (.dcand, 0x078),
      (.ctSel, 0x090), (.ctLen, 0x094), (.nodeSel, 0x0C0), (.nodeW, 0x0C4), (.nodeInfo, 0x0C8)],
    (regOffset p.1).toNat = p.2) ∧
  (∀ k : BitVec 3, (regOffset (.ctCode k)).toNat = 0x0A0 + 4 * k.toNat) ∧
  (∀ sym : Byte, (regOffset (.freq sym)).toNat = 0x400 + 4 * sym.toNat) ∧
  ∀ r : Reg, regAt (regOffset r) = some r ∧ (regOffset r).toNat % 4 = 0 ∧ ∀ r', regOffset r' = regOffset r → r' = r

/-- 20_memory R84, 10_state R28, R34: a reserved offset reads 0 and ignores writes, a write to a read-only register or to
DATA_OUT is ignored, a read of CMD returns 0; none of them raises an error. -/
def Obligations.SilentAccesses : Prop :=
  (∀ (s : State) (addr : BitVec 12) (v : Word), addr.toNat % 4 = 0 → (∀ r, regOffset r ≠ addr) →
    access (.read addr false) s = (.read 0#32 false, s) ∧ access (.write addr v 0b1111#4) s = (.write false, s)) ∧
  (∀ (s : State) (r : Reg) (v : Word),
    r ∈ [.id, .param, .status, .errcode, .errinfo, .errcmd, .dataOut, .outcnt, .total, .nsym, .maxlen, .root, .nodecnt, .pksyms,
      .pkbitsLo, .pkbitsHi, .pkacc, .pklast, .doutcnt, .dcand, .nodeW, .nodeInfo] ∨ (∃ sym, r = .freq sym) →
    access (.write (regOffset r) v 0b1111#4) s = (.write false, s)) ∧
  (∀ s : State, access (.read 0x00C#12 false) s = (.read 0#32 false, s))

/-- 40_control R120: a CMD write puts any word into an empty SLOT, whatever ERR, PHASE and OUTQ are; with SLOT occupied it is a
BusError and the word is lost. -/
def Obligations.CmdWriteSubmits : Prop :=
  ∀ (s : State) (w : Word),
    (s.slot = none → access (.write 0x00C#12 w 0b1111#4) s = (.write false, { s with slot := some w })) ∧
    (s.slot ≠ none → access (.write 0x00C#12 w 0b1111#4) s = (.write true, { s with berr := true }))

/-- 20_memory R88, 10_state R50, R51, R56: a write of DCNT, CT_LEN or CT_CODEk with BUSY = 1 or PHASE ≠ IDLE is a BusError and
stores nothing; otherwise it stores the addressed field and nothing else. -/
def Obligations.ConfigWrites : Prop :=
  ∀ (s : State) (v : Word) (k : BitVec 3),
    (s.slot ≠ none ∨ s.phase ≠ .idle → ∀ addr ∈ [regOffset .dcnt, regOffset .ctLen, regOffset (.ctCode k)],
      access (.write addr v 0b1111#4) s = (.write true, { s with berr := true })) ∧
    (s.slot = none → s.phase = .idle →
      access (.write 0x070#12 v 0b1111#4) s = (.write false, { s with dec := { s.dec with dcnt := v } }) ∧
      (∃ t, access (.write 0x094#12 v 0b1111#4) s = (.write false, t) ∧ t = { s with ct := t.ct } ∧
        ctAt t.ct s.ctSel = { ctAt s.ct s.ctSel with len := v.extractLsb' 0 8 } ∧
        ∀ u, u ≠ s.ctSel → ctAt t.ct u = ctAt s.ct u) ∧
      (∃ t, access (.write (regOffset (.ctCode k)) v 0b1111#4) s = (.write false, t) ∧ t = { s with ct := t.ct } ∧
        (ctAt t.ct s.ctSel).len = (ctAt s.ct s.ctSel).len ∧
        (∀ j : BitVec 3, (ctAt t.ct s.ctSel).code.extractLsb' (32 * j.toNat) 32 =
          if j = k then v else (ctAt s.ct s.ctSel).code.extractLsb' (32 * j.toNat) 32) ∧
        ∀ u, u ≠ s.ctSel → ctAt t.ct u = ctAt s.ct u))

/-- 10_state R32, R33, R45, R49: what a write of INTEN, INTPEND, CT_SEL and NODE_SEL stores, at any time. -/
def Obligations.SelectorAndInterruptWrites : Prop :=
  ∀ (s : State) (v : Word),
    access (.write 0x01C#12 v 0b1111#4) s = (.write false, { s with inten := v.extractLsb' 0 3 }) ∧
    access (.write 0x020#12 v 0b1111#4) s = (.write false, { s with cmdDone := s.cmdDone && !v.getLsbD 0 }) ∧
    access (.write 0x090#12 v 0b1111#4) s = (.write false, { s with ctSel := v.extractLsb' 0 8 }) ∧
    access (.write 0x0C0#12 v 0b1111#4) s = (.write false, { s with nodeSel := v.extractLsb' 0 9 })

/-- 10_state R34: a DATA_OUT read pops the head of OUTQ with VALID = 1, and reads 0 with nothing removed on an empty queue; a
write is ignored; all at any time. -/
def Obligations.DataOutPops : Prop :=
  ∀ s : State,
    (s.outq = [] → access (.read 0x024#12 false) s = (.read 0#32 false, s)) ∧
    (∀ b rest, s.outq = b :: rest →
      access (.read 0x024#12 false) s = (.read (BitVec.ofNat 32 (0x100 + b.toNat)) false, { s with outq := rest })) ∧
    (∀ v, access (.write 0x024#12 v 0b1111#4) s = (.write false, s))

/-- 20_memory R87, 10_state R22: a read of an engine-owned register while BUSY = 1 answers the next free value, without error
and without side effect on HUFF-1 (the model counts the draw). -/
def Obligations.BusyEngineReadIsFree : Prop :=
  ∀ (s : State) (r : Reg), s.slot ≠ none →
    r ∈ [.total, .nsym, .maxlen, .root, .nodecnt, .nodeW, .nodeInfo, .ctLen, .pksyms, .pkbitsLo, .pkbitsHi, .pkacc, .pklast, .dcnt,
      .doutcnt, .dcand] ∨ (∃ sym, r = .freq sym) ∨ (∃ k, r = .ctCode k) →
    access (.read (regOffset r) false) s =
      (.read (Config.busyRead s.env.draws) false, { s with env := { s.env with draws := s.env.draws + 1 } })

/-- 20_memory R85, R87, 10_state R22: a read of a register other than DATA_OUT changes nothing and returns the register, of the
host-owned ones at any time, of the engine-owned ones with BUSY = 0. Then what each register is: R24, R25, R29 to R33, R35, R37
to R40, R43 to R45, R49 to R58. (STATUS, DATA_OUT, NODE_W and NODE_INFO have statements of their own, CMD reads 0.) -/
def Obligations.ReadsReturnRegisters : Prop :=
  ∀ s : State,
    (∀ r : Reg, r ≠ .dataOut →
      r ∈ [.id, .param, .status, .cmd, .errcode, .errinfo, .errcmd, .inten, .intpend, .outcnt, .ctSel, .nodeSel] ∨
        s.slot = none →
      access (.read (regOffset r) false) s = (.read (regValue s r) false, s)) ∧
    -- identification and the error latch
    regValue s .id = 0x48554631#32 ∧
    ((regValue s .param).extractLsb' 24 8 = 0x20#8 ∧ (regValue s .param).extractLsb' 16 8 = 0xFF#8 ∧
      (s.cfg.outqDepth ≤ 65535 → ((regValue s .param).extractLsb' 0 16).toNat = s.cfg.outqDepth)) ∧
    (regValue s .errcode).toNat = s.latch.code.toNat ∧ regValue s .errinfo = s.latch.info ∧ regValue s .errcmd = s.latch.cmd ∧
    -- interrupts, OUTCNT and the selectors
    (regValue s .inten).toNat = s.inten.toNat ∧
    ((regValue s .intpend).getLsbD 0 = s.cmdDone ∧ (regValue s .intpend).getLsbD 1 = s.latch.err ∧
      ((regValue s .intpend).getLsbD 2 = true ↔ s.outq ≠ []) ∧ (regValue s .intpend).extractLsb' 3 29 = 0#29) ∧
    (s.outq.length ≤ 65535 → (regValue s .outcnt).toNat = s.outq.length) ∧
    (regValue s .ctSel).toNat = s.ctSel.toNat ∧ (regValue s .nodeSel).toNat = s.nodeSel.toNat ∧
    -- frequencies and the tree
    (∀ sym, regValue s (.freq sym) = freqAt s sym) ∧ regValue s .total = s.total ∧
    (regValue s .root).toNat = s.tree.root.toNat ∧ (regValue s .nodecnt).toNat = s.tree.count.toNat ∧
    -- the code table
    (regValue s .nsym).toNat = (allSymbols.filter fun sym => (ctAt s.ct sym).len ≠ 0#8).length ∧
    ((∀ sym, (ctAt s.ct sym).len.toNat ≤ (regValue s .maxlen).toNat) ∧
      ∃ sym, (ctAt s.ct sym).len.toNat = (regValue s .maxlen).toNat) ∧
    (regValue s .ctLen).toNat = (ctAt s.ct s.ctSel).len.toNat ∧
    (∀ k : BitVec 3, regValue s (.ctCode k) = (ctAt s.ct s.ctSel).code.extractLsb' (32 * k.toNat) 32) ∧
    -- the packer
    ((regValue s .pkacc).extractLsb' 0 3 = s.pk.accn ∧ (regValue s .pkacc).extractLsb' 3 5 = 0#5 ∧
      (regValue s .pkacc).extractLsb' 8 7 = s.pk.accv ∧ (regValue s .pkacc).extractLsb' 15 17 = 0#17) ∧
    regValue s .pksyms = s.pk.syms ∧
    s.pk.bits.toNat = (regValue s .pkbitsHi).toNat * 2 ^ 32 + (regValue s .pkbitsLo).toNat ∧
    (regValue s .pklast).toNat = s.pk.last.toNat ∧
    -- the decoder
    regValue s .dcnt = s.dec.dcnt ∧ regValue s .doutcnt = s.dec.doutcnt ∧
    (s.dec.cand.length ≤ 255 → (regValue s .dcand).toNat = s.dec.cand.length)

/-- 10_state R26, R27: the fields of STATUS, which a read returns at any time, also while BUSY = 1. -/
def Obligations.StatusFields : Prop :=
  ∀ s : State,
    access (.read 0x008#12 false) s = (.read (status s) false, s) ∧
    ((status s).getLsbD 0 = true ↔ s.slot ≠ none) ∧
    (status s).getLsbD 1 = s.latch.err ∧
    (status s).extractLsb' 2 2 = (match s.phase with | .idle => 0#2 | .pack => 1#2 | .decode => 2#2) ∧
    ((status s).getLsbD 4 = true ↔ s.phase = .decode ∧ s.dec.doutcnt = s.dec.dcnt) ∧
    ((status s).getLsbD 5 = true ↔
      ∃ w, s.slot = some w ∧ s.latch.err = false ∧ s.cfg.outqDepth < s.outq.length + need (wordOp w)) ∧
    ((status s).getLsbD 6 = true ↔ 0 < s.outq.length) ∧
    ((status s).getLsbD 7 = true ↔ s.outq.length = s.cfg.outqDepth) ∧
    (status s).getLsbD 8 = s.berr ∧
    (status s).extractLsb' 9 23 = 0#23

/-- 60_exceptions R248, R247: the level of irq, from INTEN and INTPEND as a host reads them. -/
def Obligations.IrqLevel : Prop :=
  ∀ s : State,
    (irq s = true ↔ (s.inten.getLsbD 0 = true ∧ s.cmdDone = true) ∨ (s.inten.getLsbD 1 = true ∧ s.latch.err = true) ∨
      (s.inten.getLsbD 2 = true ∧ s.outq ≠ [])) ∧
    (irq s = true ↔ s.inten.zeroExtend 32 &&& intPend s ≠ 0#32)

/-- 10_state R46, R47: with BUSY = 0 a read of NODE_W and of NODE_INFO shows NODE[NODE_SEL] below NODECNT and zeros at or
above it. -/
def Obligations.NodeWindow : Prop :=
  ∀ s : State, s.slot = none → ∃ w info : Word,
    access (.read 0x0C4#12 false) s = (.read w false, s) ∧ access (.read 0x0C8#12 false) s = (.read info false, s) ∧
    (s.nodeSel.toNat < s.tree.count.toNat →
      let n := nodeAt s.tree.node s.nodeSel.toNat
      w = n.w ∧ info.getLsbD 31 = true ∧ info.getLsbD 30 = n.leaf ∧ info.extractLsb' 26 4 = 0#4 ∧
      info.extractLsb' 17 9 = (if n.leaf then 0#9 else n.right) ∧ info.extractLsb' 8 9 = (if n.leaf then 0#9 else n.left) ∧
      info.extractLsb' 0 8 = (if n.leaf then n.sym else 0#8)) ∧
    (s.tree.count.toNat ≤ s.nodeSel.toNat → w = 0#32 ∧ info = 0#32)

/-- 20_memory R85, R94, R88: the frame of every host transaction. No transaction writes FREQ, TOTAL, NODE, ROOT, NODECNT, HEAP,
the packer, the error latch, PHASE, DOUTCNT or CAND; OUTQ only loses its head at DATA_OUT; SLOT only fills through CMD; CT and
DCNT change only with BUSY = 0 and PHASE = IDLE; BERR is only ever set. -/
def Obligations.HostTransactionFrame : Prop :=
  ∀ (tx : BusTx) (s : State),
    let t := (access tx s).2
    t.cfg = s.cfg ∧ t.freq = s.freq ∧ t.total = s.total ∧ t.tree = s.tree ∧ t.heap = s.heap ∧ t.pk = s.pk ∧
    t.latch = s.latch ∧ t.phase = s.phase ∧ t.dec.doutcnt = s.dec.doutcnt ∧ t.dec.cand = s.dec.cand ∧
    (t.outq = s.outq ∨ (tx = .read 0x024#12 false ∧ t.outq = s.outq.tail)) ∧
    (t.slot = s.slot ∨ ∃ w, tx = .write 0x00C#12 w 0b1111#4 ∧ s.slot = none ∧ t.slot = some w) ∧
    (t.ct = s.ct ∧ t.dec.dcnt = s.dec.dcnt ∨ s.slot = none ∧ s.phase = .idle) ∧
    (s.berr = true → t.berr = true)

/-- 30_encoding R110, 43_code_table R176: the expansion of LOADCT s, L, c, issued with BUSY = 0 and PHASE = IDLE, makes
CT[s] = (L, c) and CT_SEL = s and changes no other entry. -/
def Obligations.LoadctLoadsEntry : Prop :=
  ∀ (s : State) (sym len : Byte) (code : BitVec 256), s.slot = none → s.phase = .idle →
    let t := (scriptLoadct sym len code).foldl
      (fun u op => match op with
        | .bus tx => (access tx u).2
        | .readAsserting addr _ => (access (.read addr false) u).2
        | .wait => u
        | .drain => u
        | .take => u) s
    ctAt t.ct sym = { len := len, code := code } ∧ (∀ u, u ≠ sym → ctAt t.ct u = ctAt s.ct u) ∧
      t = { s with ct := t.ct, ctSel := sym }

/-- 30_encoding R110: a poll of WAIT leaves the loop exactly when BUSY = 0 and OUTQ is empty; otherwise, with a byte in OUTQ
the host reads DATA_OUT next and comes back. -/
def Obligations.WaitEndsOnlyWhenDrained : Prop :=
  ∀ (s : State) (rest : List HostOp), s.env.script = .wait :: rest →
    ((hostStep s).env.script = rest ↔ s.slot = none ∧ s.outq = []) ∧
    (s.outq ≠ [] → (hostStep s).env.script = .take :: .wait :: rest) ∧
    (s.slot ≠ none → s.outq = [] → (hostStep s).env.script = .wait :: rest)

/-! ### Invariants and the whole machine -/

/-- 10_state R62: the invariants hold of the reset state. -/
def Obligations.ResetMeetsInvariants : Prop := Inv State.reset

/-- 10_state R62 (a), R38: every step keeps TOTAL the sum of the frequencies. -/
def Obligations.StepKeepsTotal : Prop :=
  ∀ s t : State, TotalInv s → step s = .next t → TotalInv t

/-- 10_state R62 (d), R36: every step keeps OUTQ within its capacity. -/
def Obligations.StepKeepsOutqBound : Prop :=
  ∀ s t : State, OutqInv s → step s = .next t → OutqInv t

/-- 10_state R62 (e): every step keeps NODECNT at 0 or 2n - 1. -/
def Obligations.StepKeepsNodeCount : Prop :=
  ∀ s t : State, NodeCountInv s → step s = .next t → NodeCountInv t

/-- 10_state R62 (b), (c), (g), (h), R52, R54, R57: every step keeps the session invariants. -/
def Obligations.StepKeepsSessions : Prop :=
  ∀ s t : State, SessionInv s → step s = .next t → SessionInv t

/-- 20_memory R90, 10_state R59, 40_control R121, R124. Only a CMD write of the host makes BUSY 1, with the word it writes. On
the engine's turn an enabled command completes in one step: BUSY falls and CMDDONE rises (but for SRST); a command that is not
enabled leaves the state, which the model makes a next state (log 2). On a turn of the host the command in SLOT stays and none
of its effects shows: of the block a transaction changes only what R85 lists, BERR, CMDDONE, INTEN, the selectors and the head
of OUTQ. Turns are the model's (log 1). -/
def Obligations.EffectsAppearAtCompletion : Prop :=
  (∀ s t : State, s.slot = none → step s = .next t → t.slot ≠ none →
    ∃ w ops, s.env.script = .bus (.write 0x00C#12 w 0b1111#4) :: ops ∧ t.slot = some w) ∧
  ∀ (s t : State) (w : Word) (rest : List Turn), s.slot = some w → step s = .next t →
    (s.env.turns = .engine :: rest →
      (s.latch.err = true ∨ s.outq.length + need (wordOp w) ≤ s.cfg.outqDepth →
        t.slot = none ∧ (t.cmdDone = true ↔ w ≠ 0x01000000#32)) ∧
      (s.latch.err = false → s.cfg.outqDepth < s.outq.length + need (wordOp w) →
        t = { s with env := { s.env with turns := rest } })) ∧
    (s.env.turns = .host :: rest →
      t = { s with
        berr := t.berr
        inten := t.inten
        cmdDone := t.cmdDone
        outq := t.outq
        ctSel := t.ctSel
        nodeSel := t.nodeSel
        env := t.env } ∧
      (t.outq = s.outq ∨ t.outq = s.outq.tail))

/-- 70_reset R273: a run has ended when its script is done, SLOT is none, and OUTQ is empty or bytes are left on purpose. The
observation then holds every register, HOSTBUF and the err responses (logs 24, 25), and the run ended in an error iff ERR = 1. An ended run
stays ended, with the same observation, whichever agent but `rst` has the next turn (logs 1, 2). -/
def Obligations.EndedRunsStayEnded : Prop :=
  ∀ (leavesBytes : Bool) (s : State),
    (runEnded leavesBytes s = true ↔ s.env.script = [] ∧ s.slot = none ∧ (leavesBytes = true ∨ s.outq = [])) ∧
    (∀ r, (r, regValue s r) ∈ (observe s).registers) ∧ (observe s).hostbuf = s.env.hostbuf ∧
    (observe s).errs = s.env.responses.map (fun | .read _ e => e | .write e => e) ∧
    (endedInError s = true ↔ s.latch.err = true) ∧
    ∀ rest, runEnded leavesBytes s = true →
      (s.env.turns = .engine :: rest ∨ s.env.turns = .host :: rest ∨ (s.env.turns = [] ∧ rest = [])) →
      ∃ t, step s = .next t ∧ t = { s with env := { s.env with turns := rest } } ∧ runEnded leavesBytes t = true ∧
        observe t = observe s ∧ endedInError t = endedInError s
end

