-- ==== Sys2Proof/Laws/Bits.lean ====
section
/-! SUPPORT. Bit strings, the numbers that store them, and the cutting into bytes: num and bitsOf are inverse (00_scope R10),
and packBytes loses no bit (44_packer R191, 20_memory R95). -/

namespace Sys2Proof.Machine

@[simp] theorem bitsOf_length (n v : Nat) : (bitsOf n v).length = n := by
  induction n with
  | zero => rfl
  | succ n ih => simp [bitsOf, ih]

/-- num with a starting value: the start counts as the bits before the string. -/
theorem num_foldl (bs : Bits) (a : Nat) :
    bs.foldl (fun n b => 2 * n + b.toNat) a = a * 2 ^ bs.length + num bs := by
  induction bs generalizing a with
  | nil => simp [num]
  | cons b bs ih =>
    simp only [num, List.foldl_cons, List.length_cons]
    rw [ih, ih (2 * 0 + b.toNat)]
    ring

@[simp] theorem num_nil : num [] = 0 := rfl

theorem num_cons (b : Bool) (bs : Bits) : num (b :: bs) = b.toNat * 2 ^ bs.length + num bs := by
  have h := num_foldl bs (2 * 0 + b.toNat)
  simpa [num] using h

theorem num_append (xs ys : Bits) : num (xs ++ ys) = num xs * 2 ^ ys.length + num ys := by
  have h := num_foldl ys (num xs)
  simpa [num, List.foldl_append] using h

theorem num_lt (bs : Bits) : num bs < 2 ^ bs.length := by
  induction bs with
  | nil => simp
  | cons b bs ih =>
    rw [num_cons, List.length_cons, Nat.pow_succ]
    cases b <;> simp <;> omega

/-- The string of length n that v[n-1:0] stores has the number v mod 2^n (R10). -/
theorem num_bitsOf (n v : Nat) : num (bitsOf n v) = v % 2 ^ n := by
  induction n with
  | zero => simp [bitsOf, Nat.mod_one]
  | succ n ih =>
    rw [bitsOf, num_cons, ih, bitsOf_length]
    rw [Nat.mod_pow_succ, Nat.toNat_testBit]
    ring

/-- Only v[n-1:0] matters (R174). -/
theorem bitsOf_mod (n v m : Nat) (h : n ≤ m) : bitsOf n (v % 2 ^ m) = bitsOf n v := by
  induction n with
  | zero => rfl
  | succ n ih =>
    have hn : n < m := h
    simp [bitsOf, ih (Nat.le_of_lt hn), Nat.testBit_mod_two_pow, hn]

/-- num and bitsOf are inverse on strings of a known length (R10). -/
theorem bitsOf_num (bs : Bits) : bitsOf bs.length (num bs) = bs := by
  induction bs with
  | nil => rfl
  | cons b bs ih =>
    have hlt := num_lt bs
    have htail : bitsOf bs.length (num (b :: bs)) = bs := by
      rw [← bitsOf_mod bs.length (num (b :: bs)) bs.length (Nat.le_refl _), num_cons, Nat.mul_comm,
        Nat.mul_add_mod, Nat.mod_eq_of_lt hlt, ih]
    have hhead : (num (b :: bs)).testBit bs.length = b := by
      rw [num_cons, Nat.mul_comm, Nat.testBit_two_pow_mul_add _ hlt]
      cases b <;> simp
    simp [bitsOf, htail, hhead]

@[simp] theorem bitsOfByte_length (b : Byte) : (bitsOfByte b).length = 8 := bitsOf_length 8 _

/-- A byte made of eight bits reads back as them, bit 7 first (R95). -/
theorem bitsOfByte_byteOfBits (bs : Bits) (h : bs.length = 8) : bitsOfByte (byteOfBits bs) = bs := by
  have hlt : num bs < 2 ^ 8 := h ▸ num_lt bs
  have h2 := bitsOf_num bs
  rw [h] at h2
  simp only [bitsOfByte, byteOfBits, BitVec.toNat_ofNat, Nat.mod_eq_of_lt hlt, h2]

/-- Nothing is left to cut below eight bits. -/
theorem packBytes_short (bs : Bits) (h : bs.length < 8) : packBytes bs = ([], bs) := by
  unfold packBytes
  split
  · simp only [List.length_cons] at h
    omega
  · rfl

/-- One turn of the loop of R191. -/
theorem packBytes_step (hd tl : Bits) (h : hd.length = 8) :
    packBytes (hd ++ tl) = (byteOfBits hd :: (packBytes tl).1, (packBytes tl).2) := by
  match hd, h with
  | [b7, b6, b5, b4, b3, b2, b1, b0], _ => rfl

/-- Everything packBytes can do (R191, R193): the bytes' bits and the rest are the string, and the rest is shorter than 8. -/
theorem packBytes_spec (bs : Bits) :
    (packBytes bs).1.flatMap bitsOfByte ++ (packBytes bs).2 = bs ∧ (packBytes bs).2.length = bs.length % 8 ∧
      (packBytes bs).1.length = bs.length / 8 := by
  induction h : bs.length using Nat.strong_induction_on generalizing bs with
  | _ n ih =>
    by_cases hs : bs.length < 8
    · rw [packBytes_short bs hs]
      refine ⟨by simp, ?_, ?_⟩
      · simp only
        omega
      · simp only [List.length_nil]
        omega
    · have hd : (bs.take 8).length = 8 := by
        rw [List.length_take]
        omega
      have hl : (bs.drop 8).length = n - 8 := by
        rw [List.length_drop, h]
      obtain ⟨h1, h2, h3⟩ := ih (n - 8) (by omega) (bs.drop 8) hl
      have hp := packBytes_step (bs.take 8) (bs.drop 8) hd
      rw [List.take_append_drop] at hp
      rw [hp]
      refine ⟨?_, ?_, ?_⟩
      · rw [List.flatMap_cons, bitsOfByte_byteOfBits _ hd, List.append_assoc, h1, List.take_append_drop]
      · rw [h2]
        omega
      · rw [List.length_cons, h3]
        omega

/-- Every byte is a symbol. -/
theorem mem_allSymbols (s : Byte) : s ∈ allSymbols := by
  simp only [allSymbols, List.mem_map, List.mem_range]
  exact ⟨s.toNat, s.isLt, by simp⟩

@[simp] theorem allSymbols_length : allSymbols.length = 256 := by simp [allSymbols]

theorem allSymbols_getElem (i : Nat) (h : i < allSymbols.length) : allSymbols[i] = BitVec.ofNat 8 i := by
  simp [allSymbols]

end Sys2Proof.Machine
end

