-- ==== Sys2Proof/Laws/State.lean ====
section
/-! SUPPORT. One lemma per field per update of the state, true by rfl, so that no proof unfolds a record update. -/

namespace Sys2Proof.Machine

@[simp] theorem setFreq_cfg (sym : Byte) (v : Word) (s : State) : (setFreq sym v s).cfg = s.cfg := rfl
@[simp] theorem setFreq_slot (sym : Byte) (v : Word) (s : State) : (setFreq sym v s).slot = s.slot := rfl
@[simp] theorem setFreq_phase (sym : Byte) (v : Word) (s : State) : (setFreq sym v s).phase = s.phase := rfl
@[simp] theorem setFreq_berr (sym : Byte) (v : Word) (s : State) : (setFreq sym v s).berr = s.berr := rfl
@[simp] theorem setFreq_latch (sym : Byte) (v : Word) (s : State) : (setFreq sym v s).latch = s.latch := rfl
@[simp] theorem setFreq_inten (sym : Byte) (v : Word) (s : State) : (setFreq sym v s).inten = s.inten := rfl
@[simp] theorem setFreq_cmdDone (sym : Byte) (v : Word) (s : State) : (setFreq sym v s).cmdDone = s.cmdDone := rfl
@[simp] theorem setFreq_outq (sym : Byte) (v : Word) (s : State) : (setFreq sym v s).outq = s.outq := rfl
@[simp] theorem setFreq_freq (sym : Byte) (v : Word) (s : State) :
    (setFreq sym v s).freq = s.freq.set sym.toNat v sym.isLt := rfl
@[simp] theorem setFreq_total (sym : Byte) (v : Word) (s : State) : (setFreq sym v s).total = s.total := rfl
@[simp] theorem setFreq_tree (sym : Byte) (v : Word) (s : State) : (setFreq sym v s).tree = s.tree := rfl
@[simp] theorem setFreq_heap (sym : Byte) (v : Word) (s : State) : (setFreq sym v s).heap = s.heap := rfl
@[simp] theorem setFreq_ct (sym : Byte) (v : Word) (s : State) : (setFreq sym v s).ct = s.ct := rfl
@[simp] theorem setFreq_pk (sym : Byte) (v : Word) (s : State) : (setFreq sym v s).pk = s.pk := rfl
@[simp] theorem setFreq_dec (sym : Byte) (v : Word) (s : State) : (setFreq sym v s).dec = s.dec := rfl
@[simp] theorem setFreq_ctSel (sym : Byte) (v : Word) (s : State) : (setFreq sym v s).ctSel = s.ctSel := rfl
@[simp] theorem setFreq_nodeSel (sym : Byte) (v : Word) (s : State) : (setFreq sym v s).nodeSel = s.nodeSel := rfl
@[simp] theorem setFreq_env (sym : Byte) (v : Word) (s : State) : (setFreq sym v s).env = s.env := rfl

@[simp] theorem pushBytes_cfg (bs : List Byte) (s : State) : (pushBytes bs s).cfg = s.cfg := rfl
@[simp] theorem pushBytes_slot (bs : List Byte) (s : State) : (pushBytes bs s).slot = s.slot := rfl
@[simp] theorem pushBytes_phase (bs : List Byte) (s : State) : (pushBytes bs s).phase = s.phase := rfl
@[simp] theorem pushBytes_berr (bs : List Byte) (s : State) : (pushBytes bs s).berr = s.berr := rfl
@[simp] theorem pushBytes_latch (bs : List Byte) (s : State) : (pushBytes bs s).latch = s.latch := rfl
@[simp] theorem pushBytes_inten (bs : List Byte) (s : State) : (pushBytes bs s).inten = s.inten := rfl
@[simp] theorem pushBytes_cmdDone (bs : List Byte) (s : State) : (pushBytes bs s).cmdDone = s.cmdDone := rfl
@[simp] theorem pushBytes_outq (bs : List Byte) (s : State) : (pushBytes bs s).outq = s.outq ++ bs := rfl
@[simp] theorem pushBytes_freq (bs : List Byte) (s : State) : (pushBytes bs s).freq = s.freq := rfl
@[simp] theorem pushBytes_total (bs : List Byte) (s : State) : (pushBytes bs s).total = s.total := rfl
@[simp] theorem pushBytes_tree (bs : List Byte) (s : State) : (pushBytes bs s).tree = s.tree := rfl
@[simp] theorem pushBytes_heap (bs : List Byte) (s : State) : (pushBytes bs s).heap = s.heap := rfl
@[simp] theorem pushBytes_ct (bs : List Byte) (s : State) : (pushBytes bs s).ct = s.ct := rfl
@[simp] theorem pushBytes_pk (bs : List Byte) (s : State) : (pushBytes bs s).pk = s.pk := rfl
@[simp] theorem pushBytes_dec (bs : List Byte) (s : State) : (pushBytes bs s).dec = s.dec := rfl
@[simp] theorem pushBytes_ctSel (bs : List Byte) (s : State) : (pushBytes bs s).ctSel = s.ctSel := rfl
@[simp] theorem pushBytes_nodeSel (bs : List Byte) (s : State) : (pushBytes bs s).nodeSel = s.nodeSel := rfl
@[simp] theorem pushBytes_env (bs : List Byte) (s : State) : (pushBytes bs s).env = s.env := rfl

@[simp] theorem errorEntry_cfg (c : ErrCode) (x w : Word) (s : State) : (errorEntry c x w s).cfg = s.cfg := rfl
@[simp] theorem errorEntry_slot (c : ErrCode) (x w : Word) (s : State) : (errorEntry c x w s).slot = s.slot := rfl
@[simp] theorem errorEntry_phase (c : ErrCode) (x w : Word) (s : State) : (errorEntry c x w s).phase = .idle := rfl
@[simp] theorem errorEntry_berr (c : ErrCode) (x w : Word) (s : State) : (errorEntry c x w s).berr = s.berr := rfl
@[simp] theorem errorEntry_latch (c : ErrCode) (x w : Word) (s : State) :
    (errorEntry c x w s).latch = { err := true, code := errByte c, info := x, cmd := w } := rfl
@[simp] theorem errorEntry_inten (c : ErrCode) (x w : Word) (s : State) : (errorEntry c x w s).inten = s.inten := rfl
@[simp] theorem errorEntry_cmdDone (c : ErrCode) (x w : Word) (s : State) : (errorEntry c x w s).cmdDone = s.cmdDone := rfl
@[simp] theorem errorEntry_outq (c : ErrCode) (x w : Word) (s : State) : (errorEntry c x w s).outq = s.outq := rfl
@[simp] theorem errorEntry_freq (c : ErrCode) (x w : Word) (s : State) : (errorEntry c x w s).freq = s.freq := rfl
@[simp] theorem errorEntry_total (c : ErrCode) (x w : Word) (s : State) : (errorEntry c x w s).total = s.total := rfl
@[simp] theorem errorEntry_tree (c : ErrCode) (x w : Word) (s : State) : (errorEntry c x w s).tree = s.tree := rfl
@[simp] theorem errorEntry_heap (c : ErrCode) (x w : Word) (s : State) : (errorEntry c x w s).heap = s.heap := rfl
@[simp] theorem errorEntry_ct (c : ErrCode) (x w : Word) (s : State) : (errorEntry c x w s).ct = s.ct := rfl
@[simp] theorem errorEntry_pk (c : ErrCode) (x w : Word) (s : State) :
    (errorEntry c x w s).pk = { s.pk with accn := 0#3, accv := 0#7 } := rfl
@[simp] theorem errorEntry_dec (c : ErrCode) (x w : Word) (s : State) :
    (errorEntry c x w s).dec = { s.dec with cand := [] } := rfl
@[simp] theorem errorEntry_ctSel (c : ErrCode) (x w : Word) (s : State) : (errorEntry c x w s).ctSel = s.ctSel := rfl
@[simp] theorem errorEntry_nodeSel (c : ErrCode) (x w : Word) (s : State) : (errorEntry c x w s).nodeSel = s.nodeSel := rfl
@[simp] theorem errorEntry_env (c : ErrCode) (x w : Word) (s : State) : (errorEntry c x w s).env = s.env := rfl

@[simp] theorem errorReturn_cfg (s : State) : (errorReturn s).cfg = s.cfg := rfl
@[simp] theorem errorReturn_slot (s : State) : (errorReturn s).slot = s.slot := rfl
@[simp] theorem errorReturn_phase (s : State) : (errorReturn s).phase = s.phase := rfl
@[simp] theorem errorReturn_berr (s : State) : (errorReturn s).berr = false := rfl
@[simp] theorem errorReturn_latch (s : State) : (errorReturn s).latch = ErrLatch.clear := rfl
@[simp] theorem errorReturn_inten (s : State) : (errorReturn s).inten = s.inten := rfl
@[simp] theorem errorReturn_cmdDone (s : State) : (errorReturn s).cmdDone = s.cmdDone := rfl
@[simp] theorem errorReturn_outq (s : State) : (errorReturn s).outq = s.outq := rfl
@[simp] theorem errorReturn_freq (s : State) : (errorReturn s).freq = s.freq := rfl
@[simp] theorem errorReturn_total (s : State) : (errorReturn s).total = s.total := rfl
@[simp] theorem errorReturn_tree (s : State) : (errorReturn s).tree = s.tree := rfl
@[simp] theorem errorReturn_heap (s : State) : (errorReturn s).heap = s.heap := rfl
@[simp] theorem errorReturn_ct (s : State) : (errorReturn s).ct = s.ct := rfl
@[simp] theorem errorReturn_pk (s : State) : (errorReturn s).pk = s.pk := rfl
@[simp] theorem errorReturn_dec (s : State) : (errorReturn s).dec = s.dec := rfl
@[simp] theorem errorReturn_ctSel (s : State) : (errorReturn s).ctSel = s.ctSel := rfl
@[simp] theorem errorReturn_nodeSel (s : State) : (errorReturn s).nodeSel = s.nodeSel := rfl
@[simp] theorem errorReturn_env (s : State) : (errorReturn s).env = s.env := rfl

@[simp] theorem complete_cfg (b : Bool) (s : State) : (complete b s).cfg = s.cfg := rfl
@[simp] theorem complete_slot (b : Bool) (s : State) : (complete b s).slot = none := rfl
@[simp] theorem complete_phase (b : Bool) (s : State) : (complete b s).phase = s.phase := rfl
@[simp] theorem complete_berr (b : Bool) (s : State) : (complete b s).berr = s.berr := rfl
@[simp] theorem complete_latch (b : Bool) (s : State) : (complete b s).latch = s.latch := rfl
@[simp] theorem complete_inten (b : Bool) (s : State) : (complete b s).inten = s.inten := rfl
@[simp] theorem complete_cmdDone (b : Bool) (s : State) : (complete b s).cmdDone = (if b then s.cmdDone else true) := rfl
@[simp] theorem complete_outq (b : Bool) (s : State) : (complete b s).outq = s.outq := rfl
@[simp] theorem complete_freq (b : Bool) (s : State) : (complete b s).freq = s.freq := rfl
@[simp] theorem complete_total (b : Bool) (s : State) : (complete b s).total = s.total := rfl
@[simp] theorem complete_tree (b : Bool) (s : State) : (complete b s).tree = s.tree := rfl
@[simp] theorem complete_heap (b : Bool) (s : State) : (complete b s).heap = s.heap := rfl
@[simp] theorem complete_ct (b : Bool) (s : State) : (complete b s).ct = s.ct := rfl
@[simp] theorem complete_pk (b : Bool) (s : State) : (complete b s).pk = s.pk := rfl
@[simp] theorem complete_dec (b : Bool) (s : State) : (complete b s).dec = s.dec := rfl
@[simp] theorem complete_ctSel (b : Bool) (s : State) : (complete b s).ctSel = s.ctSel := rfl
@[simp] theorem complete_nodeSel (b : Bool) (s : State) : (complete b s).nodeSel = s.nodeSel := rfl
@[simp] theorem complete_env (b : Bool) (s : State) : (complete b s).env = s.env := rfl

@[simp] theorem openDecode_cfg (s : State) : (openDecode s).cfg = s.cfg := rfl
@[simp] theorem openDecode_slot (s : State) : (openDecode s).slot = s.slot := rfl
@[simp] theorem openDecode_phase (s : State) : (openDecode s).phase = .decode := rfl
@[simp] theorem openDecode_berr (s : State) : (openDecode s).berr = s.berr := rfl
@[simp] theorem openDecode_latch (s : State) : (openDecode s).latch = s.latch := rfl
@[simp] theorem openDecode_inten (s : State) : (openDecode s).inten = s.inten := rfl
@[simp] theorem openDecode_cmdDone (s : State) : (openDecode s).cmdDone = s.cmdDone := rfl
@[simp] theorem openDecode_outq (s : State) : (openDecode s).outq = s.outq := rfl
@[simp] theorem openDecode_freq (s : State) : (openDecode s).freq = s.freq := rfl
@[simp] theorem openDecode_total (s : State) : (openDecode s).total = s.total := rfl
@[simp] theorem openDecode_tree (s : State) : (openDecode s).tree = s.tree := rfl
@[simp] theorem openDecode_heap (s : State) : (openDecode s).heap = s.heap := rfl
@[simp] theorem openDecode_ct (s : State) : (openDecode s).ct = s.ct := rfl
@[simp] theorem openDecode_pk (s : State) : (openDecode s).pk = s.pk := rfl
@[simp] theorem openDecode_dec (s : State) : (openDecode s).dec = { s.dec with cand := [], doutcnt := 0#32 } := rfl
@[simp] theorem openDecode_ctSel (s : State) : (openDecode s).ctSel = s.ctSel := rfl
@[simp] theorem openDecode_nodeSel (s : State) : (openDecode s).nodeSel = s.nodeSel := rfl
@[simp] theorem openDecode_env (s : State) : (openDecode s).env = s.env := rfl

@[simp] theorem busErrorState_cfg (s : State) : (busErrorState s).cfg = s.cfg := rfl
@[simp] theorem busErrorState_slot (s : State) : (busErrorState s).slot = s.slot := rfl
@[simp] theorem busErrorState_phase (s : State) : (busErrorState s).phase = s.phase := rfl
@[simp] theorem busErrorState_berr (s : State) : (busErrorState s).berr = true := rfl
@[simp] theorem busErrorState_latch (s : State) : (busErrorState s).latch = s.latch := rfl
@[simp] theorem busErrorState_inten (s : State) : (busErrorState s).inten = s.inten := rfl
@[simp] theorem busErrorState_cmdDone (s : State) : (busErrorState s).cmdDone = s.cmdDone := rfl
@[simp] theorem busErrorState_outq (s : State) : (busErrorState s).outq = s.outq := rfl
@[simp] theorem busErrorState_freq (s : State) : (busErrorState s).freq = s.freq := rfl
@[simp] theorem busErrorState_total (s : State) : (busErrorState s).total = s.total := rfl
@[simp] theorem busErrorState_tree (s : State) : (busErrorState s).tree = s.tree := rfl
@[simp] theorem busErrorState_heap (s : State) : (busErrorState s).heap = s.heap := rfl
@[simp] theorem busErrorState_ct (s : State) : (busErrorState s).ct = s.ct := rfl
@[simp] theorem busErrorState_pk (s : State) : (busErrorState s).pk = s.pk := rfl
@[simp] theorem busErrorState_dec (s : State) : (busErrorState s).dec = s.dec := rfl
@[simp] theorem busErrorState_ctSel (s : State) : (busErrorState s).ctSel = s.ctSel := rfl
@[simp] theorem busErrorState_nodeSel (s : State) : (busErrorState s).nodeSel = s.nodeSel := rfl
@[simp] theorem busErrorState_env (s : State) : (busErrorState s).env = s.env := rfl

@[simp] theorem popOut_cfg (s : State) : (popOut s).cfg = s.cfg := rfl
@[simp] theorem popOut_slot (s : State) : (popOut s).slot = s.slot := rfl
@[simp] theorem popOut_phase (s : State) : (popOut s).phase = s.phase := rfl
@[simp] theorem popOut_berr (s : State) : (popOut s).berr = s.berr := rfl
@[simp] theorem popOut_latch (s : State) : (popOut s).latch = s.latch := rfl
@[simp] theorem popOut_inten (s : State) : (popOut s).inten = s.inten := rfl
@[simp] theorem popOut_cmdDone (s : State) : (popOut s).cmdDone = s.cmdDone := rfl
@[simp] theorem popOut_outq (s : State) : (popOut s).outq = s.outq.tail := rfl
@[simp] theorem popOut_freq (s : State) : (popOut s).freq = s.freq := rfl
@[simp] theorem popOut_total (s : State) : (popOut s).total = s.total := rfl
@[simp] theorem popOut_tree (s : State) : (popOut s).tree = s.tree := rfl
@[simp] theorem popOut_heap (s : State) : (popOut s).heap = s.heap := rfl
@[simp] theorem popOut_ct (s : State) : (popOut s).ct = s.ct := rfl
@[simp] theorem popOut_pk (s : State) : (popOut s).pk = s.pk := rfl
@[simp] theorem popOut_dec (s : State) : (popOut s).dec = s.dec := rfl
@[simp] theorem popOut_ctSel (s : State) : (popOut s).ctSel = s.ctSel := rfl
@[simp] theorem popOut_nodeSel (s : State) : (popOut s).nodeSel = s.nodeSel := rfl
@[simp] theorem popOut_env (s : State) : (popOut s).env = s.env := rfl

@[simp] theorem recordResponse_cfg (r : Response) (s : State) : (recordResponse r s).cfg = s.cfg := rfl
@[simp] theorem recordResponse_slot (r : Response) (s : State) : (recordResponse r s).slot = s.slot := rfl
@[simp] theorem recordResponse_phase (r : Response) (s : State) : (recordResponse r s).phase = s.phase := rfl
@[simp] theorem recordResponse_berr (r : Response) (s : State) : (recordResponse r s).berr = s.berr := rfl
@[simp] theorem recordResponse_latch (r : Response) (s : State) : (recordResponse r s).latch = s.latch := rfl
@[simp] theorem recordResponse_inten (r : Response) (s : State) : (recordResponse r s).inten = s.inten := rfl
@[simp] theorem recordResponse_cmdDone (r : Response) (s : State) : (recordResponse r s).cmdDone = s.cmdDone := rfl
@[simp] theorem recordResponse_outq (r : Response) (s : State) : (recordResponse r s).outq = s.outq := rfl
@[simp] theorem recordResponse_freq (r : Response) (s : State) : (recordResponse r s).freq = s.freq := rfl
@[simp] theorem recordResponse_total (r : Response) (s : State) : (recordResponse r s).total = s.total := rfl
@[simp] theorem recordResponse_tree (r : Response) (s : State) : (recordResponse r s).tree = s.tree := rfl
@[simp] theorem recordResponse_heap (r : Response) (s : State) : (recordResponse r s).heap = s.heap := rfl
@[simp] theorem recordResponse_ct (r : Response) (s : State) : (recordResponse r s).ct = s.ct := rfl
@[simp] theorem recordResponse_pk (r : Response) (s : State) : (recordResponse r s).pk = s.pk := rfl
@[simp] theorem recordResponse_dec (r : Response) (s : State) : (recordResponse r s).dec = s.dec := rfl
@[simp] theorem recordResponse_ctSel (r : Response) (s : State) : (recordResponse r s).ctSel = s.ctSel := rfl
@[simp] theorem recordResponse_nodeSel (r : Response) (s : State) : (recordResponse r s).nodeSel = s.nodeSel := rfl
@[simp] theorem recordResponse_env (r : Response) (s : State) :
    (recordResponse r s).env = { s.env with responses := s.env.responses ++ [r] } := rfl

@[simp] theorem setScript_cfg (o : List HostOp) (s : State) : (setScript o s).cfg = s.cfg := rfl
@[simp] theorem setScript_slot (o : List HostOp) (s : State) : (setScript o s).slot = s.slot := rfl
@[simp] theorem setScript_phase (o : List HostOp) (s : State) : (setScript o s).phase = s.phase := rfl
@[simp] theorem setScript_berr (o : List HostOp) (s : State) : (setScript o s).berr = s.berr := rfl
@[simp] theorem setScript_latch (o : List HostOp) (s : State) : (setScript o s).latch = s.latch := rfl
@[simp] theorem setScript_inten (o : List HostOp) (s : State) : (setScript o s).inten = s.inten := rfl
@[simp] theorem setScript_cmdDone (o : List HostOp) (s : State) : (setScript o s).cmdDone = s.cmdDone := rfl
@[simp] theorem setScript_outq (o : List HostOp) (s : State) : (setScript o s).outq = s.outq := rfl
@[simp] theorem setScript_freq (o : List HostOp) (s : State) : (setScript o s).freq = s.freq := rfl
@[simp] theorem setScript_total (o : List HostOp) (s : State) : (setScript o s).total = s.total := rfl
@[simp] theorem setScript_tree (o : List HostOp) (s : State) : (setScript o s).tree = s.tree := rfl
@[simp] theorem setScript_heap (o : List HostOp) (s : State) : (setScript o s).heap = s.heap := rfl
@[simp] theorem setScript_ct (o : List HostOp) (s : State) : (setScript o s).ct = s.ct := rfl
@[simp] theorem setScript_pk (o : List HostOp) (s : State) : (setScript o s).pk = s.pk := rfl
@[simp] theorem setScript_dec (o : List HostOp) (s : State) : (setScript o s).dec = s.dec := rfl
@[simp] theorem setScript_ctSel (o : List HostOp) (s : State) : (setScript o s).ctSel = s.ctSel := rfl
@[simp] theorem setScript_nodeSel (o : List HostOp) (s : State) : (setScript o s).nodeSel = s.nodeSel := rfl
@[simp] theorem setScript_env (o : List HostOp) (s : State) : (setScript o s).env = { s.env with script := o } := rfl

@[simp] theorem appendHostbuf_cfg (b : Byte) (s : State) : (appendHostbuf b s).cfg = s.cfg := rfl
@[simp] theorem appendHostbuf_slot (b : Byte) (s : State) : (appendHostbuf b s).slot = s.slot := rfl
@[simp] theorem appendHostbuf_phase (b : Byte) (s : State) : (appendHostbuf b s).phase = s.phase := rfl
@[simp] theorem appendHostbuf_berr (b : Byte) (s : State) : (appendHostbuf b s).berr = s.berr := rfl
@[simp] theorem appendHostbuf_latch (b : Byte) (s : State) : (appendHostbuf b s).latch = s.latch := rfl
@[simp] theorem appendHostbuf_inten (b : Byte) (s : State) : (appendHostbuf b s).inten = s.inten := rfl
@[simp] theorem appendHostbuf_cmdDone (b : Byte) (s : State) : (appendHostbuf b s).cmdDone = s.cmdDone := rfl
@[simp] theorem appendHostbuf_outq (b : Byte) (s : State) : (appendHostbuf b s).outq = s.outq := rfl
@[simp] theorem appendHostbuf_freq (b : Byte) (s : State) : (appendHostbuf b s).freq = s.freq := rfl
@[simp] theorem appendHostbuf_total (b : Byte) (s : State) : (appendHostbuf b s).total = s.total := rfl
@[simp] theorem appendHostbuf_tree (b : Byte) (s : State) : (appendHostbuf b s).tree = s.tree := rfl
@[simp] theorem appendHostbuf_heap (b : Byte) (s : State) : (appendHostbuf b s).heap = s.heap := rfl
@[simp] theorem appendHostbuf_ct (b : Byte) (s : State) : (appendHostbuf b s).ct = s.ct := rfl
@[simp] theorem appendHostbuf_pk (b : Byte) (s : State) : (appendHostbuf b s).pk = s.pk := rfl
@[simp] theorem appendHostbuf_dec (b : Byte) (s : State) : (appendHostbuf b s).dec = s.dec := rfl
@[simp] theorem appendHostbuf_ctSel (b : Byte) (s : State) : (appendHostbuf b s).ctSel = s.ctSel := rfl
@[simp] theorem appendHostbuf_nodeSel (b : Byte) (s : State) : (appendHostbuf b s).nodeSel = s.nodeSel := rfl
@[simp] theorem appendHostbuf_env (b : Byte) (s : State) :
    (appendHostbuf b s).env = { s.env with hostbuf := s.env.hostbuf ++ [b] } := rfl

@[simp] theorem recordAssertion_cfg (a : Assertion) (s : State) : (recordAssertion a s).cfg = s.cfg := rfl
@[simp] theorem recordAssertion_slot (a : Assertion) (s : State) : (recordAssertion a s).slot = s.slot := rfl
@[simp] theorem recordAssertion_phase (a : Assertion) (s : State) : (recordAssertion a s).phase = s.phase := rfl
@[simp] theorem recordAssertion_berr (a : Assertion) (s : State) : (recordAssertion a s).berr = s.berr := rfl
@[simp] theorem recordAssertion_latch (a : Assertion) (s : State) : (recordAssertion a s).latch = s.latch := rfl
@[simp] theorem recordAssertion_inten (a : Assertion) (s : State) : (recordAssertion a s).inten = s.inten := rfl
@[simp] theorem recordAssertion_cmdDone (a : Assertion) (s : State) : (recordAssertion a s).cmdDone = s.cmdDone := rfl
@[simp] theorem recordAssertion_outq (a : Assertion) (s : State) : (recordAssertion a s).outq = s.outq := rfl
@[simp] theorem recordAssertion_freq (a : Assertion) (s : State) : (recordAssertion a s).freq = s.freq := rfl
@[simp] theorem recordAssertion_total (a : Assertion) (s : State) : (recordAssertion a s).total = s.total := rfl
@[simp] theorem recordAssertion_tree (a : Assertion) (s : State) : (recordAssertion a s).tree = s.tree := rfl
@[simp] theorem recordAssertion_heap (a : Assertion) (s : State) : (recordAssertion a s).heap = s.heap := rfl
@[simp] theorem recordAssertion_ct (a : Assertion) (s : State) : (recordAssertion a s).ct = s.ct := rfl
@[simp] theorem recordAssertion_pk (a : Assertion) (s : State) : (recordAssertion a s).pk = s.pk := rfl
@[simp] theorem recordAssertion_dec (a : Assertion) (s : State) : (recordAssertion a s).dec = s.dec := rfl
@[simp] theorem recordAssertion_ctSel (a : Assertion) (s : State) : (recordAssertion a s).ctSel = s.ctSel := rfl
@[simp] theorem recordAssertion_nodeSel (a : Assertion) (s : State) : (recordAssertion a s).nodeSel = s.nodeSel := rfl
@[simp] theorem recordAssertion_env (a : Assertion) (s : State) :
    (recordAssertion a s).env = { s.env with assertions := s.env.assertions ++ [a] } := rfl

@[simp] theorem resetWith_cfg (c : Config) (e : Env) : (State.resetWith c e).cfg = c := rfl
@[simp] theorem resetWith_slot (c : Config) (e : Env) : (State.resetWith c e).slot = none := rfl
@[simp] theorem resetWith_phase (c : Config) (e : Env) : (State.resetWith c e).phase = .idle := rfl
@[simp] theorem resetWith_berr (c : Config) (e : Env) : (State.resetWith c e).berr = false := rfl
@[simp] theorem resetWith_latch (c : Config) (e : Env) : (State.resetWith c e).latch = ErrLatch.clear := rfl
@[simp] theorem resetWith_inten (c : Config) (e : Env) : (State.resetWith c e).inten = 0#3 := rfl
@[simp] theorem resetWith_cmdDone (c : Config) (e : Env) : (State.resetWith c e).cmdDone = false := rfl
@[simp] theorem resetWith_outq (c : Config) (e : Env) : (State.resetWith c e).outq = [] := rfl
@[simp] theorem resetWith_freq (c : Config) (e : Env) : (State.resetWith c e).freq = Vector.replicate 256 0#32 := rfl
@[simp] theorem resetWith_total (c : Config) (e : Env) : (State.resetWith c e).total = 0#32 := rfl
@[simp] theorem resetWith_tree (c : Config) (e : Env) :
    (State.resetWith c e).tree = { node := Vector.replicate 511 Node.zero, root := 0#9, count := 0#9 } := rfl
@[simp] theorem resetWith_heap (c : Config) (e : Env) : (State.resetWith c e).heap = [] := rfl
@[simp] theorem resetWith_ct (c : Config) (e : Env) : (State.resetWith c e).ct = Vector.replicate 256 CtEntry.empty := rfl
@[simp] theorem resetWith_pk (c : Config) (e : Env) :
    (State.resetWith c e).pk = { accn := 0#3, accv := 0#7, syms := 0#32, bits := 0#64, last := 0#4 } := rfl
@[simp] theorem resetWith_dec (c : Config) (e : Env) :
    (State.resetWith c e).dec = { dcnt := 0#32, doutcnt := 0#32, cand := [] } := rfl
@[simp] theorem resetWith_ctSel (c : Config) (e : Env) : (State.resetWith c e).ctSel = 0#8 := rfl
@[simp] theorem resetWith_nodeSel (c : Config) (e : Env) : (State.resetWith c e).nodeSel = 0#9 := rfl
@[simp] theorem resetWith_env (c : Config) (e : Env) : (State.resetWith c e).env = e := rfl

/-- The block's reset keeps the parameter and the surroundings and is otherwise the reset state (R61, R261). -/
theorem resetBlock_eq (s : State) : resetBlock s =
    { State.resetWith s.cfg { s.env with draws := s.env.draws + 1 } with
      tree := { node := freeArena s.env.draws, root := 0#9, count := 0#9 }
      heap := freeHeap s.env.draws } := rfl

end Sys2Proof.Machine
end

