-- ==== Sys2Proof/Laws/Bus.lean ====
section
/-! SUPPORT. What one transaction on the register window can do, once for reads and once for writes (20_memory R82 to R88). -/

namespace Sys2Proof.Machine

/-- A platform address reaches an offset of the window exactly when it is that offset's address (R80). -/
theorem windowOffset_eq_some (c : Config) (address : Nat) (offset : BitVec 12) :
    windowOffset c address = some offset ↔ address = platformAddress c offset := by
  have hlt := offset.isLt
  unfold windowOffset platformAddress windowSize
  by_cases h : c.base ≤ address ∧ address < c.base + 4096
  · rw [if_pos (by simpa using h), Option.some.injEq, ← BitVec.toNat_inj, BitVec.toNat_ofNat]
    omega
  · rw [if_neg (by simpa using h)]
    simp only [reduceCtorEq, false_iff]
    omega

/-- Everything a read of a register can do (R34, R85, R87). -/
theorem readReg_cases (r : Reg) (s : State) :
    (engineOwned r = true ∧ busy s = true ∧ readReg r s =
      (.read (Config.busyRead s.env.draws) false, { s with env := { s.env with draws := s.env.draws + 1 } })) ∨
    ((engineOwned r = false ∨ busy s = false) ∧ r = .dataOut ∧ readReg r s = (.read (dataOutWord s) false, popOut s)) ∨
    ((engineOwned r = false ∨ busy s = false) ∧ r ≠ .dataOut ∧ readReg r s = (.read (regValue s r) false, s)) := by
  unfold readReg
  cases ho : engineOwned r <;> cases hb : busy s <;> cases r <;> simp_all [regValue, engineOwned]

/-- Everything a write of a register can do (R88, R120). -/
theorem writeReg_cases (r : Reg) (v : Word) (s : State) :
    (r = .cmd ∧ s.slot = none ∧ writeReg r v s = (.write false, { s with slot := some v })) ∨
    (writeReg r v s = (.write true, busErrorState s)) ∨
    (isConfigReg r = true ∧ busy s = false ∧ s.phase = .idle ∧ writeReg r v s = (.write false, storeConfig r v s)) ∨
    (r ≠ .cmd ∧ isConfigReg r = false ∧ writeReg r v s = (.write false, storePlain r v s)) := by
  unfold writeReg
  by_cases hr : r = .cmd
  · cases hs : s.slot <;> simp [hr, submitCommand, hs, writeError]
  · cases hc : isConfigReg r with
    | false => simp [hr]
    | true =>
      by_cases hi : (busy s || s.phase != .idle) = true
      · simp [hr, hi, writeError]
      · simp only [Bool.or_eq_true, bne_iff_ne, ne_eq, not_or, not_not, Bool.not_eq_true] at hi
        simp [hr, hi.1, hi.2]

/-- Everything a transaction can do (R81, R82, R84). -/
theorem access_cases (tx : BusTx) (s : State) :
    ((access tx s).2 = busErrorState s) ∨ ((access tx s).2 = s) ∨
    (∃ addr r, tx = .read addr false ∧ regAt addr = some r ∧ access tx s = readReg r s) ∨
    (∃ addr r v, tx = .write addr v 0b1111#4 ∧ regAt addr = some r ∧ access tx s = writeReg r v s) := by
  cases tx with
  | read addr narrow =>
    by_cases h : (narrow || addr.extractLsb' 0 2 != 0#2) = true
    · left
      simp [access, h, readError]
    · right
      cases hr : regAt addr with
      | none => exact .inl (by simp [access, h, hr])
      | some r =>
        have hn : narrow = false := by
          cases narrow with
          | false => rfl
          | true => simp at h
        subst hn
        exact .inr (.inl ⟨addr, r, rfl, hr, by simp [access, h, hr]⟩)
  | write addr v strb =>
    by_cases h : (addr.extractLsb' 0 2 != 0#2 || strb != 0b1111#4) = true
    · left
      simp [access, h, writeError]
    · right
      cases hr : regAt addr with
      | none => exact .inl (by simp [access, h, hr])
      | some r =>
        have hn : strb = 0b1111#4 := by
          simp only [Bool.or_eq_true, bne_iff_ne, ne_eq, not_or, not_not] at h
          exact h.2
        subst hn
        exact .inr (.inr ⟨addr, r, v, rfl, hr, by simp only [access, h, hr]; simp⟩)

end Sys2Proof.Machine
end

