-- ==== Sys2Proof/Laws/Commands.lean ====
section
/-! SUPPORT. What executing a command can do, once for all 13: every arm of exec is Execute and Complete around the command's
own effect (40_control R123, R124), and Execute has four outcomes. -/

namespace Sys2Proof.Machine

/-- The effect of each command, the rule R123 performs (R126 to R128 and the files 41 to 45). -/
def effectOf : Instr → State → Effect
  | .nop => .done
  | .srst => fun s => .done (resetBlock s)
  | .errclr => fun s => .done (errorReturn s)
  | .fclr => fclrEffect
  | .fadd sym => faddEffect sym
  | .build => buildEffect
  | .ctclr => ctclrEffect
  | .pkstart => pkstartEffect
  | .pkb sym => pkbEffect sym
  | .pkend => pkendEffect
  | .darm => darmEffect
  | .din b => dinEffect b
  | .dend => dendEffect

/-- Every arm of exec is the shared frame around the command's effect. -/
theorem exec_eq_runCommand (i : Instr) (s : State) : exec i s = runCommand i (effectOf i) s := by
  cases i <;> rfl

/-- Executing a command always ends in a next state. -/
theorem exec_next (i : Instr) (s : State) :
    exec i s = .next (complete (i.mnemonic == .srst) (execute i (effectOf i) s)) := exec_eq_runCommand i s

/-- Everything Execute can do (R123): discard, raise BAD_PHASE, end, or raise the command's own error. -/
theorem execute_cases (i : Instr) (eff : State → Effect) (s : State) :
    (s.latch.err = true ∧ runsInError i.mnemonic = false ∧ execute i eff s = s) ∨
    ((s.latch.err = false ∨ runsInError i.mnemonic = true) ∧ allowed i.mnemonic s.phase = false ∧
      execute i eff s = errorEntry .badPhase ((phaseBits s.phase).zeroExtend 32) (encode i) s) ∨
    ((s.latch.err = false ∨ runsInError i.mnemonic = true) ∧ allowed i.mnemonic s.phase = true ∧
      ((∃ t, eff s = .done t ∧ execute i eff s = t) ∨
        ∃ c x t, eff s = .raise c x t ∧ execute i eff s = errorEntry c x (encode i) t)) := by
  unfold execute
  cases he : s.latch.err <;> cases hr : runsInError i.mnemonic <;> cases ha : allowed i.mnemonic s.phase <;>
    cases hf : eff s <;> simp

/-- Execute with ERR = 0 in an allowed phase, when the command's rule ends. -/
theorem execute_done (i : Instr) (eff : State → Effect) (s t : State) (he : s.latch.err = false)
    (ha : allowed i.mnemonic s.phase = true) (hf : eff s = .done t) : execute i eff s = t := by
  simp [execute, he, ha, hf]

/-- Execute with ERR = 0 in an allowed phase, when the command's rule raises. -/
theorem execute_raise (i : Instr) (eff : State → Effect) (s t : State) (c : ErrCode) (x : Word) (he : s.latch.err = false)
    (ha : allowed i.mnemonic s.phase = true) (hf : eff s = .raise c x t) :
    execute i eff s = errorEntry c x (encode i) t := by
  simp [execute, he, ha, hf]

/-- exec with ERR = 0 in an allowed phase, when the command's rule ends. -/
theorem exec_done (i : Instr) (s t : State) (he : s.latch.err = false) (ha : allowed i.mnemonic s.phase = true)
    (hf : effectOf i s = .done t) : exec i s = .next (complete (i.mnemonic == .srst) t) := by
  rw [exec_next, execute_done i _ s t he ha hf]

/-- exec with ERR = 0 in an allowed phase, when the command's rule raises. -/
theorem exec_raise (i : Instr) (s t : State) (c : ErrCode) (x : Word) (he : s.latch.err = false)
    (ha : allowed i.mnemonic s.phase = true) (hf : effectOf i s = .raise c x t) :
    exec i s = .next (complete (i.mnemonic == .srst) (errorEntry c x (encode i) t)) := by
  rw [exec_next, execute_raise i _ s t c x he ha hf]

/-- An illegal word's step (R231). -/
theorem runIllegal_next (w : Word) (s : State) :
    runIllegal w s = .next (complete false (if s.latch.err then s else errorEntry .illegalCmd 0#32 w s)) := rfl

/-- Everything Step(bit) can do (R213). -/
theorem stepBit_cases (bit : Bool) (s : State) :
    (∃ sym, matchedSymbol s.ct (s.dec.cand ++ [bit]) = some sym ∧
      stepBit bit s = .done
        { pushBytes [sym] s with dec := { s.dec with doutcnt := s.dec.doutcnt + 1#32, cand := [] } }) ∨
    (matchedSymbol s.ct (s.dec.cand ++ [bit]) = none ∧ canStillMatch s.ct (s.dec.cand ++ [bit]) = true ∧
      stepBit bit s = .done { s with dec := { s.dec with cand := s.dec.cand ++ [bit] } }) ∨
    (matchedSymbol s.ct (s.dec.cand ++ [bit]) = none ∧ canStillMatch s.ct (s.dec.cand ++ [bit]) = false ∧
      stepBit bit s = .raise .deadEnd s.dec.doutcnt { s with dec := { s.dec with cand := s.dec.cand ++ [bit] } }) := by
  simp only [stepBit]
  cases hm : matchedSymbol s.ct (s.dec.cand ++ [bit]) with
  | some sym => simp
  | none => cases hc : canStillMatch s.ct (s.dec.cand ++ [bit]) <;> simp

end Sys2Proof.Machine
end

