-- ==== Sys2Proof/Laws/PerInstr.lean ====
section
/-! SUPPORT. One statement about every instruction as syntax, proved constructor by constructor: its word is legal by the
clauses of 30_encoding R105, whatever its operand. -/

/-- The word of the instruction is none of the illegal words of R105. -/
def Sys2Proof.Laws.EncodesLegalWord.Statement (i : Sys2Proof.Instr) : Prop :=
  Sys2Proof.wordWellFormed (Sys2Proof.encode i) = true

namespace Sys2Proof.Laws

theorem EncodesLegalWord.nop : EncodesLegalWord.Statement .nop := by unfold EncodesLegalWord.Statement; decide

theorem EncodesLegalWord.srst : EncodesLegalWord.Statement .srst := by unfold EncodesLegalWord.Statement; decide

theorem EncodesLegalWord.errclr : EncodesLegalWord.Statement .errclr := by unfold EncodesLegalWord.Statement; decide

theorem EncodesLegalWord.fclr : EncodesLegalWord.Statement .fclr := by unfold EncodesLegalWord.Statement; decide

theorem EncodesLegalWord.fadd (s : Byte) : EncodesLegalWord.Statement (.fadd s) := by
  unfold EncodesLegalWord.Statement
  revert s
  decide

theorem EncodesLegalWord.build : EncodesLegalWord.Statement .build := by unfold EncodesLegalWord.Statement; decide

theorem EncodesLegalWord.ctclr : EncodesLegalWord.Statement .ctclr := by unfold EncodesLegalWord.Statement; decide

theorem EncodesLegalWord.pkstart : EncodesLegalWord.Statement .pkstart := by unfold EncodesLegalWord.Statement; decide

theorem EncodesLegalWord.pkb (s : Byte) : EncodesLegalWord.Statement (.pkb s) := by
  unfold EncodesLegalWord.Statement
  revert s
  decide

theorem EncodesLegalWord.pkend : EncodesLegalWord.Statement .pkend := by unfold EncodesLegalWord.Statement; decide

theorem EncodesLegalWord.darm : EncodesLegalWord.Statement .darm := by unfold EncodesLegalWord.Statement; decide

theorem EncodesLegalWord.din (b : Byte) : EncodesLegalWord.Statement (.din b) := by
  unfold EncodesLegalWord.Statement
  revert b
  decide

theorem EncodesLegalWord.dend : EncodesLegalWord.Statement .dend := by unfold EncodesLegalWord.Statement; decide

/-- Every instruction of Syntax.lean is well formed: the types leave no ill-formed one (R101). -/
theorem every_instr_wellFormed (i : Instr) : i.wellFormed = true := by
  cases i <;> rfl

end Sys2Proof.Laws
end

