-- ==== Sys2Proof/Laws/Queue.lean ====
section
/-! SUPPORT. The priority queue of BUILD as a list: when ExtractMin answers, and the sizes along the loop of 42_tree R150. -/

namespace Sys2Proof.Machine

/-- ExtractMin answers exactly on a non-empty queue. -/
theorem extractMin_eq_none (q : List Key) : extractMin q = none ↔ q = [] := by
  cases q with
  | nil => simp [extractMin]
  | cons k ks =>
    simp only [extractMin, reduceCtorEq, iff_false]
    cases extractMin ks with
    | none => simp
    | some p =>
      dsimp only
      split <;> simp

/-- One entry leaves the queue. -/
theorem extractMin_length (q : List Key) (m : Key) (rest : List Key) (h : extractMin q = some (m, rest)) :
    q.length = rest.length + 1 := by
  induction q generalizing m rest with
  | nil => simp [extractMin] at h
  | cons k ks ih =>
    simp only [extractMin] at h
    split at h
    · rename_i hn
      cases h
      have := (extractMin_eq_none ks).mp hn
      subst this
      rfl
    · rename_i m' rest' hs
      have hl := ih m' rest' hs
      split at h <;> cases h <;> simp [hl]

/-- The loop of R150 ends with at most one entry, each turn having used one index and shortened the queue by one. -/
theorem mergeAll_sizes (fuel : Nat) (f : Forest) (h : f.pq.length ≤ fuel + 1) :
    (mergeAll fuel f).pq.length ≤ 1 ∧ (mergeAll fuel f).k + (mergeAll fuel f).pq.length = f.k + f.pq.length := by
  induction fuel generalizing f with
  | zero => exact ⟨by simpa [mergeAll] using h, rfl⟩
  | succ n ih =>
    simp only [mergeAll]
    split
    · rename_i hn
      have := (extractMin_eq_none _).mp hn
      simp [this]
    · rename_i a pq1 h1
      have l1 := extractMin_length _ _ _ h1
      split
      · rename_i hn
        have := (extractMin_eq_none _).mp hn
        subst this
        simp only [List.length_nil] at l1
        omega
      · rename_i b pq2 h2
        have l2 := extractMin_length _ _ _ h2
        have hc : (combine f a b pq2).pq.length = pq2.length + 1 := rfl
        have hk : (combine f a b pq2).k = f.k + 1 := rfl
        obtain ⟨h3, h4⟩ := ih (combine f a b pq2) (by omega)
        exact ⟨h3, by omega⟩

@[simp] theorem keysOf_length (k : Nat) (ns : List Node) : (keysOf k ns).length = ns.length := by
  induction ns generalizing k with
  | nil => rfl
  | cons n ns ih => simp [keysOf, ih]

/-- There are at most 256 leaves (R150). -/
theorem leavesOf_length_le (freq : Vector Word 256) : (leavesOf freq).length ≤ 256 := by
  refine Nat.le_trans (List.length_filterMap_le _ _) ?_
  simp [allSymbols]

end Sys2Proof.Machine
end

