-- ==== Sys2Proof/Laws/Steps.lean ====
section
/-! SUPPORT. What one step can do, once: the engine executes a command or an illegal word, or has no step; the host issues a
transaction; or `rst` happens (00_scope R7, 40_control R121, 70_reset R261). -/

namespace Sys2Proof.Machine

/-- The state on which an agent acts after its named turn is used up. -/
def usedTurn (s : State) (rest : List Turn) : State := { s with env := { s.env with turns := rest } }

/-- Everything the engine's turn can do (R121). -/
theorem engineStep_cases (s : State) :
    (engineReady s = false ∧ engineStep s = .next s) ∨
    ∃ w, s.slot = some w ∧ engineReady s = true ∧
      ((∃ i, decode w = .ok i ∧ engineStep s = exec i s) ∨ ∃ e, decode w = .error e ∧ engineStep s = runIllegal w s) := by
  cases hs : s.slot with
  | none => exact .inl ⟨by simp [engineReady, hs], by simp [engineStep, hs]⟩
  | some w =>
    cases hr : engineReady s with
    | false => exact .inl ⟨rfl, by simp [engineStep, hs, hr]⟩
    | true =>
      refine .inr ⟨w, rfl, rfl, ?_⟩
      cases hd : decode w with
      | ok i => exact .inl ⟨i, rfl, by simp [engineStep, hs, hr, execWord, hd]⟩
      | error e => exact .inr ⟨e, rfl, by simp [engineStep, hs, hr, execWord, hd]⟩

/-- Everything one step can do: an agent acts, on the state itself when no turn is named, else with the turn used up. -/
theorem step_cases (s : State) :
    ∃ u, (u = s ∨ ∃ rest, u = usedTurn s rest) ∧
      (step s = engineStep u ∨ step s = .next (hostStep u) ∨ step s = .next (rstStep u)) := by
  unfold step takeTurn
  split
  · split
    · exact ⟨s, .inl rfl, .inl rfl⟩
    · exact ⟨s, .inl rfl, .inr (.inl rfl)⟩
  · rename_i rest _
    exact ⟨usedTurn s rest, .inr ⟨rest, rfl⟩, .inl rfl⟩
  · rename_i rest _
    exact ⟨usedTurn s rest, .inr ⟨rest, rfl⟩, .inr (.inl rfl)⟩
  · rename_i rest _
    exact ⟨usedTurn s rest, .inr ⟨rest, rfl⟩, .inr (.inr rfl)⟩

/-- The engine's turn always ends in a next state. -/
theorem engineStep_next (s : State) : ∃ t, engineStep s = .next t := by
  rcases engineStep_cases s with ⟨-, h⟩ | ⟨w, -, -, ⟨i, -, h⟩ | ⟨e, -, h⟩⟩
  · exact ⟨s, h⟩
  · exact ⟨_, h.trans (exec_next i s)⟩
  · exact ⟨_, h.trans (runIllegal_next w s)⟩

/-- No step stops the machine (R239, R272). -/
theorem step_next (s : State) : ∃ t, step s = .next t := by
  obtain ⟨u, -, h | h | h⟩ := step_cases s
  · obtain ⟨t, ht⟩ := engineStep_next u
    exact ⟨t, h.trans ht⟩
  · exact ⟨_, h⟩
  · exact ⟨_, h⟩

end Sys2Proof.Machine
end

