-- ==== Sys2Proof/Laws/Table.lean ====
section
/-! SUPPORT. The code table read symbol by symbol: which pairs `present` lists, what writing one entry changes, and the
decoder's two questions in the terms of the statements (10_state R39, R48, 45_decoder R213). -/

namespace Sys2Proof.Machine

@[simp] theorem codeOf_length (e : CtEntry) : (codeOf e).length = e.len.toNat := bitsOf_length _ _

@[simp] theorem ctAt_ctSet_same (ct : CodeTable) (s : Byte) (e : CtEntry) : ctAt (ctSet ct s e) s = e := by
  simp [ctAt, ctSet]

/-- Writing CT[s] leaves every other entry alone. -/
theorem ctAt_ctSet_ne (ct : CodeTable) (s u : Byte) (e : CtEntry) (h : u ≠ s) : ctAt (ctSet ct s e) u = ctAt ct u := by
  have hn : s.toNat ≠ u.toNat := fun hc => h (BitVec.eq_of_toNat_eq hc.symm)
  simp [ctAt, ctSet, hn]

@[simp] theorem ctAt_emptyTable (s : Byte) : ctAt emptyTable s = CtEntry.empty := by
  simp [ctAt, emptyTable]

/-- The i-th pair of symbols with table entries is (i, CT[i]). -/
theorem mem_symbols_zip {α : Type} (v : Vector α 256) (s : Byte) (x : α) :
    (s, x) ∈ allSymbols.zip v.toList ↔ v[s.toNat]'(s.isLt) = x := by
  rw [List.mem_iff_getElem]
  constructor
  · rintro ⟨i, hi, h⟩
    have hl : i < 256 := by simpa using hi
    rw [List.getElem_zip] at h
    simp only [Prod.mk.injEq] at h
    obtain ⟨h1, h2⟩ := h
    rw [allSymbols_getElem] at h1
    have hs : s.toNat = i := by
      rw [← h1, BitVec.toNat_ofNat]
      exact Nat.mod_eq_of_lt hl
    subst hs
    simpa using h2
  · intro h
    have hl : s.toNat < 256 := s.isLt
    refine ⟨s.toNat, by simpa using hl, ?_⟩
    rw [List.getElem_zip, allSymbols_getElem]
    simp only [Prod.mk.injEq]
    exact ⟨by simp, by simpa using h⟩

/-- `present` lists exactly the symbols with a code, each with its code (R39). -/
theorem mem_present (ct : CodeTable) (s : Byte) (c : Bits) :
    (s, c) ∈ present ct ↔ HasCode ct s ∧ symCode ct s = c := by
  simp only [present, List.mem_filterMap, Prod.exists]
  constructor
  · rintro ⟨a, e, hmem, h⟩
    have he := (mem_symbols_zip ct a e).mp hmem
    split at h
    · cases h
    · rename_i hlen
      cases h
      subst he
      exact ⟨hlen, rfl⟩
  · rintro ⟨hcode, rfl⟩
    refine ⟨s, ctAt ct s, (mem_symbols_zip ct s _).mpr rfl, ?_⟩
    simp only [HasCode] at hcode
    simp [hcode, symCode]

/-- The decoder's prefix test is StartsACode (R213). -/
theorem canStillMatch_iff (ct : CodeTable) (p : Bits) : canStillMatch ct p = true ↔ StartsACode ct p := by
  simp only [canStillMatch, List.any_eq_true, Prod.exists, mem_present, StartsACode, isProperPrefix, Bool.and_eq_true,
    List.isPrefixOf_iff_prefix, decide_eq_true_eq]
  constructor
  · rintro ⟨a, _, ⟨hc, rfl⟩, hp, hl⟩
    exact ⟨a, hc, hp, hl⟩
  · rintro ⟨a, hc, hp, hl⟩
    exact ⟨a, _, ⟨hc, rfl⟩, hp, hl⟩

/-- A matched symbol has the candidate as its code (R213). -/
theorem matchedSymbol_some (ct : CodeTable) (c : Bits) (s : Byte) (h : matchedSymbol ct c = some s) :
    HasCode ct s ∧ symCode ct s = c := by
  simp only [matchedSymbol, Option.map_eq_some_iff] at h
  obtain ⟨⟨a, d⟩, hf, rfl⟩ := h
  have hm := (mem_present ct a d).mp (List.mem_of_find?_eq_some hf)
  have hd := List.find?_some hf
  simp only [beq_iff_eq] at hd
  exact ⟨hm.1, hm.2.trans hd⟩

/-- With no matched symbol, no code is the candidate (R213). -/
theorem matchedSymbol_none (ct : CodeTable) (c : Bits) (h : matchedSymbol ct c = none) (s : Byte) (hs : HasCode ct s) :
    symCode ct s ≠ c := by
  simp only [matchedSymbol, Option.map_eq_none_iff, List.find?_eq_none] at h
  intro hc
  exact h (s, c) ((mem_present ct s c).mpr ⟨hs, hc⟩) (by simp)

/-- A register file read after a write (R37). -/
@[simp] theorem freqAt_setFreq_same (sym : Byte) (v : Word) (s : State) : freqAt (setFreq sym v s) sym = v := by
  simp [freqAt, setFreq]

theorem freqAt_setFreq_ne (sym u : Byte) (v : Word) (s : State) (h : u ≠ sym) :
    freqAt (setFreq sym v s) u = freqAt s u := by
  have hn : sym.toNat ≠ u.toNat := fun hc => h (BitVec.eq_of_toNat_eq hc.symm)
  simp [freqAt, setFreq, hn]

end Sys2Proof.Machine
end

