-- ==== Sys2Proof/Laws/RunEnd.lean ====
section
/-! SUPPORT. Runs of a host program: when one has ended, in the terms of the state, what its observation reads, and that any
number of steps answers a state (70_reset R273). -/

namespace Sys2Proof.Machine

/-- R273 (a), (b), (c) as conditions on the fields. -/
theorem runEnded_iff (leavesBytes : Bool) (s : State) :
    runEnded leavesBytes s = true ↔ s.env.script = [] ∧ s.slot = none ∧ (leavesBytes = true ∨ s.outq = []) := by
  cases h : s.outq <;> simp [runEnded, scriptDone, busy, outAvail, outCount, h, and_assoc]

theorem mem_allRegs (r : Reg) : r ∈ allRegs := by
  cases r with
  | ctCode k =>
    refine List.mem_append_left _ (List.mem_append_right _ (List.mem_map.mpr ⟨k.toNat, List.mem_range.mpr k.isLt, ?_⟩))
    simp
  | freq s => exact List.mem_append_right _ (List.mem_map.mpr ⟨s, mem_allSymbols s, rfl⟩)
  | _ => exact List.mem_append_left _ (List.mem_append_left _ (by decide))

@[simp] theorem observe_hostbuf (s : State) : (observe s).hostbuf = s.env.hostbuf := rfl
@[simp] theorem observe_errs (s : State) : (observe s).errs = s.env.responses.map responseErr := rfl

@[simp] theorem launchFrom_script (s : State) (p : List HostOp) : (launchFrom s p).env.script = p := rfl
@[simp] theorem launchFrom_hostbuf (s : State) (p : List HostOp) : (launchFrom s p).env.hostbuf = [] := rfl
@[simp] theorem launchFrom_responses (s : State) (p : List HostOp) : (launchFrom s p).env.responses = [] := rfl
@[simp] theorem launchFrom_assertions (s : State) (p : List HostOp) : (launchFrom s p).env.assertions = [] := rfl
@[simp] theorem launchFrom_slot (s : State) (p : List HostOp) : (launchFrom s p).slot = s.slot := rfl
@[simp] theorem launchFrom_outq (s : State) (p : List HostOp) : (launchFrom s p).outq = s.outq := rfl

/-- What an RD with an asserted value does (R109): the read, as RD without one does it, with its response recorded, and the value
asserted beside the value read. -/
theorem hostStep_readAsserting (s : State) (addr : BitVec 12) (v : Word) (rest : List HostOp)
    (h : s.env.script = .readAsserting addr v :: rest) :
    hostStep s = recordAssertion ⟨addr, v, responseData (access (.read addr false) s).1⟩
      (setScript rest (recordResponse (access (.read addr false) s).1 (access (.read addr false) s).2)) := by
  simp only [hostStep, h]

/-- The assertions hold after one more exactly when they held and it holds (R109). -/
theorem assertionsHold_recordAssertion (a : Assertion) (s : State) :
    assertionsHold (recordAssertion a s) = true ↔ assertionsHold s = true ∧ a.got = a.asserted := by
  simp [assertionsHold, assertionHolds]

/-- No number of steps stops the machine (R239, R272). -/
theorem stepTimes_next (n : Nat) (s : State) : ∃ t, stepTimes n s = .next t := by
  induction n generalizing s with
  | zero => exact ⟨s, rfl⟩
  | succ n ih =>
    obtain ⟨u, hu⟩ := step_next s
    obtain ⟨t, ht⟩ := ih u
    exact ⟨t, by simp only [stepTimes, hu, ht]⟩

end Sys2Proof.Machine
end

