-- ==== Sys2Proof/Machine/AsmText.lean ====
section
/-! DEFINITION. The written forms of 30_encoding R108 to R110: a line of text read as a command word or as the host operations
it expands to. A line none of the rules allows is `none`. -/

namespace Sys2Proof.Machine

/-- The mnemonics of R103, upper case (R108). -/
def mnemonicNames : List (String × Mnemonic) :=
  [("NOP", .nop), ("SRST", .srst), ("ERRCLR", .errclr), ("FCLR", .fclr), ("FADD", .fadd), ("BUILD", .build), ("CTCLR", .ctclr),
    ("PKSTART", .pkstart), ("PKB", .pkb), ("PKEND", .pkend), ("DARM", .darm), ("DIN", .din), ("DEND", .dend)]

/-- The register names of 10_state R23, but for the FREQ array. -/
def regNames : List (String × Reg) :=
  [("ID", .id), ("PARAM", .param), ("STATUS", .status), ("CMD", .cmd), ("ERRCODE", .errcode), ("ERRINFO", .errinfo),
    ("ERRCMD", .errcmd), ("INTEN", .inten), ("INTPEND", .intpend), ("DATA_OUT", .dataOut), ("OUTCNT", .outcnt),
    ("TOTAL", .total), ("NSYM", .nsym), ("MAXLEN", .maxlen), ("ROOT", .root), ("NODECNT", .nodecnt), ("PKSYMS", .pksyms)] ++
  [("PKBITS_LO", .pkbitsLo), ("PKBITS_HI", .pkbitsHi), ("PKACC", .pkacc), ("PKLAST", .pklast), ("DCNT", .dcnt),
    ("DOUTCNT", .doutcnt), ("DCAND", .dcand), ("CT_SEL", .ctSel), ("CT_LEN", .ctLen), ("NODE_SEL", .nodeSel),
    ("NODE_W", .nodeW), ("NODE_INFO", .nodeInfo)] ++
  [("CT_CODE0", .ctCode 0#3), ("CT_CODE1", .ctCode 1#3), ("CT_CODE2", .ctCode 2#3), ("CT_CODE3", .ctCode 3#3),
    ("CT_CODE4", .ctCode 4#3), ("CT_CODE5", .ctCode 5#3), ("CT_CODE6", .ctCode 6#3), ("CT_CODE7", .ctCode 7#3)]

/-- What the table of names gives for a word of the line. -/
def lookupName {α : Type} (names : List (String × α)) (tok : List Char) : Option α :=
  (names.find? fun p => p.1.toList == tok).map Prod.snd

/-- The quote of a character literal. -/
def isQuote (c : Char) : Bool := c.toNat == 39

/-- The quote of a string literal (R110). -/
def isStringQuote (c : Char) : Bool := c.toNat == 34

/-- Blanks and the comma between operands. -/
def isSeparator (c : Char) : Bool := c.toNat == 32 || c.toNat == 9 || c.toNat == 13 || c.toNat == 10 || c.toNat == 44

/-- The word read so far, if there is one, before the words that follow. -/
def flushToken (cur : List Char) (toks : List (List Char)) : List (List Char) := if cur.isEmpty then toks else cur :: toks

/-- The words of a line up to its comment, which begins with a semicolon (R108). Inside a character or string literal a
semicolon or a blank is a character like any other (log 21). DESIGN CHOICE (log 21): R110 does not say how a string literal
holds a double quote; here it cannot, since the first one ends the literal, and there is no escape. -/
def tokenize : Bool → List Char → List Char → List (List Char)
  | _, cur, [] => flushToken cur []
  | true, cur, c :: cs =>
    if isStringQuote c then flushToken (cur ++ [c]) (tokenize false [] cs) else tokenize true (cur ++ [c]) cs
  | false, cur, c :: cs =>
    if isStringQuote c then tokenize true (cur ++ [c]) cs
    else if c == ';' then flushToken cur []
    else if isSeparator c then flushToken cur (tokenize false [] cs)
    else
      match cs with
      | x :: q :: rest =>
        if isQuote c && isQuote q then tokenize false (cur ++ [c, x, q]) rest
        else tokenize false (cur ++ [c]) (x :: q :: rest)
      | rest => tokenize false (cur ++ [c]) rest

/-- The value of a digit below the base. -/
def digitValue (base : Nat) (c : Char) : Option Nat :=
  let v :=
    if '0' ≤ c && c ≤ '9' then c.toNat - 48
    else if 'a' ≤ c && c ≤ 'f' then c.toNat - 87
    else if 'A' ≤ c && c ≤ 'F' then c.toNat - 55
    else base
  if v < base then some v else none

/-- The number the digits write after the number read so far. -/
def numberFrom (base : Nat) : Nat → List Char → Option Nat
  | acc, [] => some acc
  | acc, c :: cs =>
    match digitValue base c with
    | some v => numberFrom base (acc * base + v) cs
    | none => none

/-- A hexadecimal literal with 0x before it, or a decimal literal. DESIGN CHOICE (log 21): R108 gives these forms for `<byte>`
only. The model reads them wherever a line has a number, with hexadecimal digits of either letter case, any number of digits
and leading zeros. -/
def natLit : List Char → Option Nat
  | [] => none
  | ['0', 'x'] => none
  | '0' :: 'x' :: ds => numberFrom 16 0 ds
  | ds => numberFrom 10 0 ds

/-- A literal below 2^n. DESIGN CHOICE (log 21): this is how the model reads CMDW's `<word>`, which R108 does not define, the
values of WR and RD, a literal offset, and L and c of LOADCT; a character literal is none of them. -/
def wordLit (n : Nat) (tok : List Char) : Option (BitVec n) :=
  match natLit tok with
  | some v => if v < 2 ^ n then some (BitVec.ofNat n v) else none
  | none => none

/-- A `<byte>` of R108. -/
def byteLit (tok : List Char) : Option ByteLit :=
  match tok with
  | [q, c, q'] => if isQuote q && isQuote q' then some (.chr c) else (natLit tok).map .dec
  | '0' :: 'x' :: _ => (natLit tok).map .hex
  | _ => (natLit tok).map .dec

/-- The value of a `<byte>` of R108. -/
def byteOfToken (tok : List Char) : Option Byte := (byteLit tok).bind byteLitValue

/-- FREQ[s] (R109): the name and a byte in brackets. DESIGN CHOICE (log 21): R109 does not say how s is spelled, and the model
reads a `<byte>` of R108, so that FREQ[0x61], FREQ[97] and FREQ['a'] are one register and FREQ[61] is symbol 61 decimal. -/
def freqRegOf : List Char → Option Reg
  | 'F' :: 'R' :: 'E' :: 'Q' :: '[' :: rest =>
    if rest.getLast? == some ']' then (byteOfToken rest.dropLast).map .freq else none
  | _ => none

/-- A `<reg>` of R109 as an offset: a register's name, FREQ[s], or a literal offset. -/
def offsetOf (tok : List Char) : Option (BitVec 12) :=
  match lookupName regNames tok with
  | some r => some (regOffset r)
  | none =>
    match freqRegOf tok with
    | some r => some (regOffset r)
    | none => wordLit 12 tok

/-- A command line of R108 from its words. How CMDW's `<word>` is written is the model's choice (`wordLit`, log 21). -/
def commandOf : List (List Char) → Option AsmLine
  | [m] => (lookupName mnemonicNames m).map .plain
  | [m, b] =>
    if m == "CMDW".toList then (wordLit 32 b).map .cmdw
    else
      match lookupName mnemonicNames m, byteLit b with
      | some mn, some lit => some (.withByte mn lit)
      | _, _ => none
  | _ => none

/-- The word a command line assembles to (R108). -/
def assembleText (line : String) : Option Word := (commandOf (tokenize false [] line.toList)).bind assemble

/-- The ASCII bytes of a string literal after its opening quote, in order (R110). DESIGN CHOICE (log 21): no character of it is
an escape, so a backslash is the byte of a backslash. A literal whose closing quote is missing is none. -/
def stringBytes : List Char → Option (List Byte)
  | [] => none
  | [q] => if isStringQuote q then some [] else none
  | c :: cs =>
    match byteLitValue (.chr c), stringBytes cs with
    | some b, some bs => some (b :: bs)
    | _, _ => none

/-- The bytes of the operands of FADDS, PKS and DINS: byte literals and string literals (R110). DESIGN CHOICE (log 21): R110
writes bytes for all three, or one string for FADDS and PKS; the model also reads strings for DINS, bytes and strings mixed, and
no operand at all, which expands to nothing. -/
def bytesOfTokens : List (List Char) → Option (List Byte)
  | [] => some []
  | tok :: toks =>
    let here :=
      match tok with
      | c :: cs => if isStringQuote c then stringBytes cs else (byteOfToken tok).map fun b => [b]
      | [] => none
    match here, bytesOfTokens toks with
    | some bs, some rest => some (bs ++ rest)
    | _, _ => none

/-- The operations of a script line from its words (R109, R110). -/
def operationsOf : List (List Char) → Option (List HostOp)
  | [] => some []
  | m :: args =>
    if m == "WAIT".toList && args.isEmpty then some [.wait]
    else if m == "DRAIN".toList && args.isEmpty then some [.drain]
    else if m == "FADDS".toList then (bytesOfTokens args).map scriptFadds
    else if m == "PKS".toList then (bytesOfTokens args).map scriptPks
    else if m == "DINS".toList then (bytesOfTokens args).map scriptDins
    else
      match args with
      | [r, v] =>
        if m == "WR".toList then
          match offsetOf r, wordLit 32 v with
          | some o, some w => some [.bus (.write o w 0b1111#4)]
          | _, _ => none
        else ((commandOf (m :: args)).bind assemble).map scriptWord
      | [a, b, c] =>
        if m == "RD".toList && b == ['='] then
          match offsetOf a, wordLit 32 c with
          | some o, some v => some [.readAsserting o v]
          | _, _ => none
        else if m == "LOADCT".toList then
          match byteOfToken a, wordLit 8 b, wordLit 256 c with
          | some s, some len, some code => some (scriptLoadct s len code)
          | _, _, _ => none
        else none
      | [r] =>
        if m == "RD".toList then (offsetOf r).map fun o => [.bus (.read o false)]
        else ((commandOf (m :: args)).bind assemble).map scriptWord
      | _ => ((commandOf (m :: args)).bind assemble).map scriptWord

/-- The host operations of one script line; a blank or comment line has none. -/
def scriptText (line : String) : Option (List HostOp) := operationsOf (tokenize false [] line.toList)

/-- The host operations of a script, line by line; `none` if some line is none of R108 to R110. -/
def scriptOf : List String → Option (List HostOp)
  | [] => some []
  | line :: lines =>
    match scriptText line, scriptOf lines with
    | some ops, some rest => some (ops ++ rest)
    | _, _ => none

end Sys2Proof.Machine
end

