-- ==== Sys2Proof/Tests/Slice0.lean ====
section
/-! SUPPORT. Tests: what is ill formed, every command's word from 30_encoding R103, worked vectors of 95_test_vectors, and a
witness for the hypotheses of every statement that has some. -/

namespace Sys2Proof.Tests

open Sys2Proof.Machine

set_option Elab.async false

/-! ### Ill-formed terms, one for each check of WellFormed.lean -/

/-- R105 (a): an OP outside R103. -/
theorem test_illformed_opcode : wordWellFormed 0x03000000#32 = false := by decide

/-- R105 (b): FADD with RSV ≠ 0. -/
theorem test_illformed_reserved : wordWellFormed 0x11000100#32 = false := by decide

/-- R105 (c): BUILD with IMM8 ≠ 0. -/
theorem test_illformed_operand : wordWellFormed 0x20000001#32 = false := by decide

/-- R6: depths just outside 32..65535. -/
theorem test_illformed_depth : Config.wellFormed ⟨31, 0⟩ = false ∧ Config.wellFormed ⟨65536, 0⟩ = false := by decide

/-- R82: misaligned, narrow read, narrow write. -/
theorem test_illformed_transaction :
    busTxWellFormed (.read 0x002#12 false) = false ∧ busTxWellFormed (.read 0x008#12 true) = false ∧
      busTxWellFormed (.write 0x01D#12 7#32 0b1111#4) = false ∧ busTxWellFormed (.write 0x01C#12 7#32 0b0001#4) = false := by
  decide

/-- R108: a C8 mnemonic alone, a C0 mnemonic with a byte, a byte above 255. -/
theorem test_illformed_line :
    asmWellFormed (.plain .fadd) = false ∧ asmWellFormed (.withByte .build (.dec 1)) = false ∧
      asmWellFormed (.withByte .din (.dec 256)) = false ∧ asmWellFormed (.withByte .din (.hex 0x100)) = false := by decide

/-! ### Every command's word, written from R103, and rejected words by name -/

theorem test_decode_nop : decode 0x00000000#32 = .ok .nop := by decide

theorem test_decode_srst : decode 0x01000000#32 = .ok .srst := by decide

theorem test_decode_errclr : decode 0x02000000#32 = .ok .errclr := by decide

theorem test_decode_fclr : decode 0x10000000#32 = .ok .fclr := by decide

theorem test_decode_fadd : decode 0b00010001000000000000000001100001#32 = .ok (.fadd 0x61#8) := by decide

theorem test_decode_build : decode 0x20000000#32 = .ok .build := by decide

theorem test_decode_ctclr : decode 0x21000000#32 = .ok .ctclr := by decide

theorem test_decode_pkstart : decode 0x30000000#32 = .ok .pkstart := by decide

theorem test_decode_pkb : decode 0b00110001000000000000000011111111#32 = .ok (.pkb 0xFF#8) := by decide

theorem test_decode_pkend : decode 0x32000000#32 = .ok .pkend := by decide

theorem test_decode_darm : decode 0x40000000#32 = .ok .darm := by decide

theorem test_decode_din : decode 0b01000001000000000000000011100010#32 = .ok (.din 0xE2#8) := by decide

theorem test_decode_dend : decode 0x42000000#32 = .ok .dend := by decide

/-- R105's three examples. -/
theorem test_decode_illegal :
    decode 0x03000000#32 = .error .undefinedOp ∧ decode 0x11000100#32 = .error .reservedNotZero ∧
      decode 0x20000001#32 = .error .operandNotZero := by decide

/-- No two rows of R103 match the same word: some bit of both masks differs. -/
theorem test_rows_disjoint :
    opcodeTable.Pairwise (fun a b => a.pattern &&& (a.mask &&& b.mask) ≠ b.pattern &&& (a.mask &&& b.mask)) := by decide

/-- R108: FADD 0x61, PKB 'a' and DIN 226 assemble to R111's and R103's words. -/
theorem test_assemble :
    assemble (.withByte .fadd (.hex 0x61)) = some 0x11000061#32 ∧ assemble (.withByte .pkb (.chr 'a')) = some 0x31000061#32 ∧
      assemble (.withByte .din (.dec 226)) = some 0x410000E2#32 ∧ assemble (.plain .build) = some 0x20000000#32 := by decide

/-- R108's own examples as text, with a comment; a C0 mnemonic with a byte and a lower-case one are no lines. -/
theorem test_assemble_text :
    assembleText "BUILD" = some 0x20000000#32 ∧ assembleText "FADD 0x61   ; one more" = some 0x11000061#32 ∧
      assembleText "PKB 'a'" = some 0x31000061#32 ∧ assembleText "DIN 226" = some 0x410000E2#32 ∧
      assembleText "CMDW 0x03000000" = some 0x03000000#32 ∧ assembleText "BUILD 1" = none ∧ assembleText "build" = none := by
  decide +kernel

/-- Lines of P1 and P2 of 95_test_vectors as text. -/
theorem test_script_text :
    scriptText "FADDS \"ab\"  ; two" = some [.bus (.write 0x00C#12 0x11000061#32 0b1111#4), .wait,
        .bus (.write 0x00C#12 0x11000062#32 0b1111#4), .wait] ∧
      scriptText "WR CT_SEL, 0x61" = some [.bus (.write 0x090#12 0x61#32 0b1111#4)] ∧
      scriptText "RD CT_CODE0 = 0x00000001" = some [.readAsserting 0x0A0#12 1#32] ∧
      scriptText "RD FREQ[0x61] = 3" = some [.readAsserting 0x584#12 3#32] ∧
      scriptText "RD FREQ['a']" = some [.bus (.read 0x584#12 false)] ∧
      scriptText "LOADCT 0x62, 2, 0x0" = some (scriptLoadct 0x62#8 2#8 0#256) ∧
      scriptText "; host stores the artifact" = some [] := by
  decide +kernel

/-! ### States to test on -/

/-- The table of V-B1: a "1", b "00", c "01". -/
def tableA : CodeTable :=
  ctSet (ctSet (ctSet emptyTable 0x61#8 ⟨1#8, 1#256⟩) 0x62#8 ⟨2#8, 0#256⟩) 0x63#8 ⟨2#8, 1#256⟩

/-- The frequencies of V-B1, "aaabc". -/
def counted : State :=
  { State.reset with
    freq := (((Vector.replicate 256 0#32).set 0x61 3#32).set 0x62 1#32).set 0x63 1#32
    total := 5#32 }

/-- One symbol, V-B6. -/
def countedOne : State := { State.reset with freq := (Vector.replicate 256 0#32).set 0x41 1000#32, total := 1000#32 }

/-- TOTAL at its largest, V-F4. -/
def countedFull : State :=
  { State.reset with freq := (Vector.replicate 256 0#32).set 0x41 0xFFFFFFFF#32, total := 0xFFFFFFFF#32 }

/-- An open packing session over table A, with three pending bits (V-P1 after three PKB 61). -/
def packing : State :=
  { State.reset with phase := .pack, ct := tableA, pk := { accn := 3#3, accv := 7#7, syms := 3#32, bits := 3#64, last := 0#4 } }

/-- PKSYMS at its largest, V-P9. -/
def packingFull : State := { packing with pk := { packing.pk with syms := 0xFFFFFFFF#32 } }

/-- An open decoding session over table A with DCNT = n. -/
def decoding (n : Word) : State :=
  { State.reset with phase := .decode, ct := tableA, dec := { dcnt := n, doutcnt := 0#32, cand := [] } }

/-- A latched error, V-C3. -/
def failed : State :=
  { State.reset with latch := { err := true, code := 1#8, info := 0#32, cmd := 0x03000000#32 }, cmdDone := true }

/-- A state with a word in SLOT. -/
def withSlot (w : Word) (s : State) : State := { s with slot := some w }

/-- A state whose turns are given. -/
def withTurns (ts : List Turn) (s : State) : State := { s with env := { s.env with turns := ts } }

/-- The next state, for tests that look at one. -/
def after (o : Host.Outcome State Fault Refusal) : Option State :=
  match o with
  | .next t => some t
  | .fault _ => none
  | .refused _ => none

/-! ### Worked vectors of 95_test_vectors -/

/-- V-C1: NOP from reset leaves STATUS = 0 and INTPEND = 1. -/
theorem test_nop : ((after (exec .nop State.reset)).map fun t => (status t, intPend t)) = some (0#32, 1#32) := by decide +kernel

/-- V-C8: SRST in PACK with bytes in OUTQ: STATUS and INTPEND read 0, OUTQ is empty. -/
theorem test_srst :
    ((after (exec .srst { packing with outq := [1#8, 2#8, 3#8], total := 5#32 })).map fun t =>
      (status t, intPend t, t.outq, t.total)) = some (0#32, 0#32, [], 0#32) := by decide +kernel

/-- V-C7: ERRCLR after an error leaves STATUS 0 and the latch zero. -/
theorem test_errclr : ((after (exec .errclr failed)).map fun t => (status t, t.latch)) = some (0#32, ErrLatch.clear) := by
  decide +kernel

/-- V-F2: FCLR. -/
theorem test_fclr : ((after (exec .fclr counted)).map fun t => (freqAt t 0x61#8, t.total)) = some (0#32, 0#32) := by
  decide +kernel

/-- V-F3: FADD 0xFF. -/
theorem test_fadd : ((after (exec (.fadd 0xFF#8) State.reset)).map fun t => (freqAt t 0xFF#8, freqAt t 0#8, t.total)) =
    some (1#32, 0#32, 1#32) := by decide +kernel

/-- V-F4: OVERFLOW. -/
theorem test_fadd_overflow :
    ((after (exec (.fadd 0x42#8) countedFull)).map fun t => (t.latch, freqAt t 0x42#8, t.total)) =
      some (⟨true, 4#8, 0x42#32, 0x11000042#32⟩, 0#32, 0xFFFFFFFF#32) := by decide +kernel

/-- V-B1: ROOT, NODECNT, NSYM, MAXLEN and the code of c after BUILD over "aaabc". -/
theorem test_build :
    ((after (exec .build counted)).map fun t =>
      (t.tree.root, t.tree.count, regValue t .nsym, regValue t .maxlen, symCode t.ct 0x63#8)) =
      some (4#9, 5#9, 3#32, 2#32, [false, true]) := by decide +kernel

/-- V-B1: NODE_INFO of NODE[3] and NODE[4]. -/
theorem test_build_nodes :
    ((after (exec .build counted)).map fun t =>
      (regValue { t with nodeSel := 3#9 } .nodeInfo, regValue { t with nodeSel := 4#9 } .nodeInfo)) =
      some (0x80040100#32, 0x80000300#32) := by decide +kernel

/-- V-T1: CTCLR. -/
theorem test_ctclr : ((after (exec .ctclr { State.reset with ct := tableA })).map fun t =>
    (regValue t .nsym, regValue t .maxlen)) = some (0#32, 0#32) := by decide +kernel

/-- R190's example: STATUS = 4 after PKSTART. -/
theorem test_pkstart : ((after (exec .pkstart State.reset)).map status) = some 4#32 := by decide +kernel

/-- V-P1: the fourth PKB gives PKACC = 0x1C05. -/
theorem test_pkb : ((after (exec (.pkb 0x62#8) packing)).map fun t => (regValue t .pkacc, t.pk.syms, t.pk.bits, t.outq)) =
    some (0x00001C05#32, 4#32, 5#64, []) := by decide +kernel

/-- V-P10: NO_CODE has priority over OVERFLOW. -/
theorem test_pkb_priority : ((after (exec (.pkb 0x7A#8) packingFull)).map fun t => (t.latch.code, t.latch.info)) =
    some (5#8, 0x7A#32) := by decide +kernel

/-- R192's example: seven pending bits 1110001 leave as 0xE2, PKLAST = 7. -/
theorem test_pkend :
    ((after (exec .pkend { packing with pk := ⟨7#3, 0b1110001#7, 5#32, 7#64, 0#4⟩ })).map fun t =>
      (t.outq, t.pk.last, t.phase, regValue t .pkacc)) = some ([0xE2#8], 7#4, .idle, 0#32) := by decide +kernel

/-- V-D12: CORRUPT_TABLE with the pair (61, 62). -/
theorem test_darm_corrupt :
    ((after (exec .darm
      { State.reset with
        ct := ctSet (ctSet emptyTable 0x61#8 ⟨1#8, 0#256⟩) 0x62#8 ⟨2#8, 1#256⟩
        dec := ⟨1#32, 0#32, []⟩ })).map fun t => (t.latch.code, t.latch.info, t.phase)) =
      some (6#8, 0x00006261#32, .idle) := by decide +kernel

/-- V-D9: with DCNT = 0 an empty table is armed, STATUS = 0x18. -/
theorem test_darm_empty : ((after (exec .darm State.reset)).map status) = some 0x18#32 := by decide +kernel

/-- V-D1: DIN E2 decodes "aaabc", STATUS = 0x58. -/
theorem test_din : ((after (exec (.din 0xE2#8) (decoding 5#32))).map fun t => (t.outq, t.dec.doutcnt, status t)) =
    some ([0x61#8, 0x61#8, 0x61#8, 0x62#8, 0x63#8], 5#32, 0x58#32) := by decide +kernel

/-- V-D7: DEAD_END at bit 4 keeps the three bytes. -/
theorem test_din_dead_end :
    ((after (exec (.din 0x1F#8) { decoding 5#32 with ct := ctSet emptyTable 0x41#8 ⟨1#8, 0#256⟩ })).map fun t =>
      (t.latch, t.outq, t.dec.cand)) = some (⟨true, 7#8, 3#32, 0x4100001F#32⟩, [0x41#8, 0x41#8, 0x41#8], []) := by decide +kernel

/-- V-D5: UNDERRUN. -/
theorem test_dend_underrun :
    ((after (exec .dend { decoding 6#32 with dec := ⟨6#32, 5#32, [false]⟩ })).map fun t => (t.latch, t.dec.cand)) =
      some (⟨true, 8#8, 5#32, 0x42000000#32⟩, []) := by decide +kernel

/-- R215: DEND closes the session. -/
theorem test_dend : ((after (exec .dend { decoding 5#32 with dec := ⟨5#32, 5#32, []⟩ })).map fun t => (t.phase, t.dec.doutcnt)) =
    some (.idle, 5#32) := by decide +kernel

/-- V-C3: an illegal word run by a step. -/
theorem test_illegal_step :
    ((after (step (State.reset.withFetchWord 32 0x03000000))).map fun t => (status t, t.latch.code, t.latch.cmd)) =
      some (2#32, 1#8, 0x03000000#32) := by decide +kernel

/-- V-C10: PKB held at OUTCNT = 40, STATUS = 0x65. -/
theorem test_held : status (withSlot 0x31000000#32 { packing with outq := List.replicate 40 0#8 }) = 0x65#32 := by decide +kernel

/-- V-C9, V-C11, V-C12, V-C16: the four kinds of BusError. -/
theorem test_bus_errors :
    (access (.write 0x00C#12 0#32 0b1111#4) (withSlot 1#32 State.reset)).1 = .write true ∧
      (access (.read 0x002#12 false) State.reset).1 = .read 0#32 true ∧
      (access (.write 0x01C#12 7#32 0b0001#4) State.reset).2.inten = 0#3 ∧
      (access (.write 0x070#12 4#32 0b1111#4) packing).1 = .write true := by decide +kernel

/-- V-C2: ID and PARAM. -/
theorem test_identity : regValue State.reset .id = 0x48554631#32 ∧ regValue State.reset .param = 0x20FF0040#32 := by decide

/-- R80: the window's last word for a BASE of 0x10000, and the first addresses below and above the window. -/
theorem test_base :
    platformAddress ⟨64, 0x10000⟩ 0xFFC#12 = 0x10FFC ∧ windowOffset ⟨64, 0x10000⟩ 0x10FFC = some 0xFFC#12 ∧
      windowOffset ⟨64, 0x10000⟩ 0xFFFF = none ∧ windowOffset ⟨64, 0x10000⟩ 0x11000 = none := by decide

/-- V-C15: DATA_OUT with OUTQ = [E2], then empty. -/
theorem test_data_out :
    (access (.read 0x024#12 false) { State.reset with outq := [0xE2#8] }).1 = .read 0x000001E2#32 false ∧
      (access (.read 0x024#12 false) State.reset).1 = .read 0#32 false := by decide +kernel

/-- V-T2, V-T3: CT_CODE0 is stored whole and code(0x62) is its low three bits. -/
theorem test_code_window :
    symCode (storeConfig (.ctCode 0#3) 0xFFFFFFFE#32 { State.reset with ctSel := 0x62#8, ct := ctSet emptyTable 0x62#8 ⟨3#8, 6#256⟩ }).ct
      0x62#8 = [true, true, false] := by decide +kernel

/-- V-C17: irq with INTEN = 1 after a NOP. -/
theorem test_irq : ((after (exec .nop { State.reset with inten := 1#3 })).map irq) = some true := by decide +kernel

/-- R273, R274: a program is not over before its last WAIT has exited, which one poll of an idle engine does; the observation
then has R25's PARAM and the err response of the poll. -/
theorem test_run_end :
    runEnded false (launch [.wait]) = false ∧
      ((after (step (launch [.wait]))).map fun t => (runEnded false t, endedInError t, (observe t).errs, (observe t).hostbuf)) =
        some (true, false, [false], []) ∧
      (Reg.param, 0x20FF0040#32) ∈ (observe State.reset).registers := by decide +kernel

/-- R109: after P2's DEND the assertion RD DOUTCNT = 5 holds, and with any other value it fails; both runs go on. -/
theorem test_read_asserting :
    let s := fun v : Word => { decoding 5#32 with
      phase := .idle
      dec := ⟨5#32, 5#32, []⟩
      env := { Env.initial with script := [scriptAssert .doutcnt v] } }
    ((after (step (s 5#32))).map fun t => (assertionsHold t, scriptDone t)) = some (true, true) ∧
      ((after (step (s 6#32))).map fun t => (assertionsHold t, scriptDone t)) = some (false, true) := by decide +kernel

/-! ### Witnesses: states that meet the hypotheses of the statements -/

theorem witness_IllegalWordsRaise :
    (withSlot 0x31000100#32 State.reset).slot = some 0x31000100#32 ∧ State.reset.latch.err = false ∧
      (∃ e, decode 0x31000100#32 = .error e) ∧ (∃ e, decode 0x43000000#32 = .error e) ∧ (∃ e, decode 0x20000001#32 = .error e) :=
  ⟨rfl, rfl, ⟨.reservedNotZero, by decide⟩, ⟨.undefinedOp, by decide⟩, ⟨.operandNotZero, by decide⟩⟩

/-- Room for NEED = 32 exactly: OUTCNT = 32 of 64. -/
theorem witness_StepRunsDecodedCommand :
    let s := withSlot 0x31000061#32 { packing with outq := List.replicate 32 0#8 }
    s.slot = some 0x31000061#32 ∧ decode 0x31000061#32 = .ok (.pkb 0x61#8) ∧
      s.outq.length + need (wordOp 0x31000061#32) ≤ s.cfg.outqDepth ∧ s.env.turns = [] ∧
      (withTurns [.engine] s).env.turns = [.engine] := by decide +kernel

/-- One byte too few for NEED = 32: OUTCNT = 33 of 64; no word; and an empty OUTQ at the smallest depth. -/
theorem witness_EngineWaits :
    let s := withTurns [.engine] (withSlot 0x31000061#32 { packing with outq := List.replicate 33 0#8 })
    s.env.turns = [.engine] ∧ s.slot = some 0x31000061#32 ∧ s.latch.err = false ∧
      s.cfg.outqDepth < s.outq.length + need (wordOp 0x31000061#32) ∧
      (withTurns [.engine] State.reset).slot = none ∧
      (withSlot 0x31000061#32 { packing with cfg := ⟨32, 0⟩ }).outq = [] := by decide +kernel

theorem witness_PushesWithinNeed : ∃ t, Instr.pkend ≠ .srst ∧ exec .pkend packing = .next t := ⟨_, by decide, rfl⟩

theorem witness_BadPhaseAborts :
    packing.latch.err = false ∧ allowed (Instr.fadd 0x61#8).mnemonic packing.phase = false ∧
      allowed (Instr.pkb 0x61#8).mnemonic State.reset.phase = false ∧ allowed Instr.pkend.mnemonic (decoding 5#32).phase = false := by
  decide +kernel

theorem witness_ErrorStateDiscards :
    let s := withSlot 0x310000FF#32 failed
    s.latch.err = true ∧ s.slot = some 0x310000FF#32 ∧ s.env.turns = [] ∧ (withTurns [.engine] s).env.turns = [.engine] ∧
      (0x310000FF#32 : Word) ≠ 0#32 ∧ (0x310000FF#32 : Word) ≠ 0x01000000#32 ∧ (0x310000FF#32 : Word) ≠ 0x02000000#32 := by
  decide +kernel

theorem witness_ErrorsArePrecise : ∃ t, packing.latch.err = false ∧ exec (.pkb 0x7A#8) packing = .next t ∧ t.latch.err = true :=
  ⟨_, by decide, rfl, by decide +kernel⟩

theorem witness_SrstAndRstReset : (withTurns [.rst, .host] packing).env.turns = [.rst, .host] ∧ packing.cfg.outqDepth ≠ 0 := by
  decide +kernel

theorem witness_FclrClears : counted.latch.err = false ∧ counted.phase = .idle := by decide +kernel

/-- One below and at TOTAL = 2^32 - 1. -/
theorem witness_FaddCounts :
    countedFull.latch.err = false ∧ countedFull.phase = .idle ∧ countedFull.total.toNat = 2 ^ 32 - 1 ∧
      { countedFull with total := 0xFFFFFFFE#32 }.total.toNat ≠ 2 ^ 32 - 1 := by decide +kernel

theorem witness_FrequenciesAreOccurrenceCounts :
    counted.latch.err = false ∧ counted.phase = .idle ∧ [0x61#8, 0#8, 0xFF#8].length ≤ 2 ^ 32 - 1 ∧
      2 ^ 32 ≤ (List.replicate (2 ^ 32) 0x61#8).length :=
  ⟨rfl, rfl, by decide, by rw [List.length_replicate]⟩

theorem witness_BuildOfNothingRaisesEmpty :
    State.reset.latch.err = false ∧ State.reset.phase = .idle ∧ ∀ sym, freqAt State.reset sym = 0#32 :=
  ⟨rfl, rfl, fun sym => by simp [freqAt, State.reset, State.resetWith]⟩

/-- The hypotheses the BUILD statements share, with the next state they speak of. -/
theorem witness_BuildStatements :
    ∃ t, TotalInv counted ∧ counted.latch.err = false ∧ counted.phase = .idle ∧ (∃ sym, freqAt counted sym ≠ 0#32) ∧
      2 ≤ symbolsSeen counted ∧ exec .build counted = .next t :=
  ⟨_, by unfold TotalInv freqSum; decide +kernel, by decide +kernel, by decide +kernel, ⟨0x61#8, by decide +kernel⟩,
    by decide +kernel, rfl⟩

theorem witness_BuildCompletes :
    counted.latch.err = false ∧ counted.phase = .idle ∧ ∃ sym, freqAt counted sym ≠ 0#32 :=
  ⟨rfl, rfl, 0x61#8, by decide +kernel⟩

/-- The two queues of V-B2: the leaf ties with the internal node and is taken first. -/
theorem witness_ExtractMinIsSmallest :
    [(⟨2#32, 3#9⟩ : Key), ⟨2#32, 0#9⟩] ≠ [] ∧
      extractMin [⟨2#32, 3#9⟩, ⟨2#32, 0#9⟩] = some (⟨2#32, 0#9⟩, [⟨2#32, 3#9⟩]) := by decide

theorem witness_BuildDependsOnFreqOnly :
    ∃ t1 t2, counted.freq = { counted with ctSel := 9#8, ct := tableA }.freq ∧ (∃ sym, freqAt counted sym ≠ 0#32) ∧
      exec .build counted = .next t1 ∧ exec .build { counted with ctSel := 9#8, ct := tableA } = .next t2 ∧
      counted.latch.err = false ∧ counted.phase = .idle :=
  ⟨_, _, rfl, ⟨0x61#8, by decide +kernel⟩, rfl, rfl, rfl, rfl⟩

theorem witness_SingleSymbolGetsZero :
    countedOne.latch.err = false ∧ countedOne.phase = .idle ∧ freqAt countedOne 0x41#8 ≠ 0#32 ∧
      ∀ u, u ≠ 0x41#8 → freqAt countedOne u = 0#32 := by decide +kernel

/-- A string of length MAXLEN, the shortest BuildCodeIsComplete speaks of. -/
theorem witness_BuildCodeIsComplete :
    ∃ t, 2 ≤ symbolsSeen counted ∧ exec .build counted = .next t ∧ longestCode t.ct ≤ [false, true].length :=
  ⟨_, by decide +kernel, rfl, by decide +kernel⟩

theorem witness_CodesArePaths :
    ∃ t, 2 ≤ symbolsSeen counted ∧ exec .build counted = .next t ∧ freqAt counted 0x62#8 ≠ 0#32 :=
  ⟨_, by decide +kernel, rfl, by decide +kernel⟩

theorem witness_CtclrClears : counted.latch.err = false ∧ counted.phase = .idle := witness_FclrClears

theorem witness_PkstartOpens : counted.latch.err = false ∧ counted.phase = .idle := witness_FclrClears

/-- A symbol with a code below and at PKSYMS = 2^32 - 1, and a symbol without one. -/
theorem witness_PkbAppendsCode :
    packing.latch.err = false ∧ packing.phase = .pack ∧ HasCode packing.ct 0x61#8 ∧ packing.pk.syms.toNat ≠ 2 ^ 32 - 1 ∧
      ¬ HasCode packing.ct 0x7A#8 ∧ HasCode packingFull.ct 0x61#8 ∧ packingFull.pk.syms.toNat = 2 ^ 32 - 1 := by
  unfold HasCode
  decide +kernel

theorem witness_PkendFlushes :
    packing.latch.err = false ∧ packing.phase = .pack ∧ packing.pk.accn ≠ 0#3 ∧
      { packing with pk := ⟨0#3, 0#7, 4#32, 8#64, 0#4⟩ }.pk.accn = 0#3 := by decide +kernel

theorem witness_PackingSessionResult :
    let s := { State.reset with ct := tableA }
    s.latch.err = false ∧ s.phase = .idle ∧ (∀ b ∈ [0x61#8, 0x62#8, 0x63#8], HasCode s.ct b) ∧
      [0x61#8, 0x62#8, 0x63#8].length ≤ 2 ^ 32 - 1 := by
  unfold HasCode
  decide +kernel

/-- The three clauses of ValidateReports: an empty table, two equal codes (V-D13), and the table A. -/
theorem witness_ValidateReports :
    (∀ s, ¬ HasCode emptyTable s) ∧
      Violates (ctSet (ctSet emptyTable 0x10#8 ⟨2#8, 2#256⟩) 0x20#8 ⟨2#8, 2#256⟩) 0x10#8 0x20#8 ∧
      HasCode tableA 0x61#8 ∧ validate tableA = none := by
  refine ⟨fun s => ?_, ?_, ?_, by decide +kernel⟩
  · simp [HasCode, CtEntry.empty]
  · unfold Violates HasCode symCode
    decide +kernel
  · unfold HasCode
    decide +kernel

/-- The pair of V-D13 is the first one in (s, t) order. -/
theorem witness_ValidateReports_first :
    let ct := ctSet (ctSet emptyTable 0x10#8 ⟨2#8, 2#256⟩) 0x20#8 ⟨2#8, 2#256⟩
    ∀ s t, Violates ct s t → (0x10#8 : Byte).toNat < s.toNat ∨ (0x10#8 = s ∧ (0x20#8 : Byte).toNat ≤ t.toNat) := by
  intro ct s t h
  obtain ⟨hne, hs, ht, -, -⟩ := h
  have key : ∀ u, HasCode ct u → u = 0x10#8 ∨ u = 0x20#8 := by
    intro u hu
    by_contra hc
    rw [not_or] at hc
    apply hu
    simp only [ct]
    rw [ctAt_ctSet_ne _ _ _ _ hc.2, ctAt_ctSet_ne _ _ _ _ hc.1, ctAt_emptyTable]
    rfl
  rcases key s hs with rfl | rfl <;> rcases key t ht with rfl | rfl <;> simp at hne ⊢

/-- The third clause of ValidateReports: no pair of table A violates. -/
theorem witness_ValidateReports_accepts : ∀ s t, ¬ Violates tableA s t := by
  rintro s t ⟨hne, hs, ht, -, hp⟩
  have key : ∀ u, HasCode tableA u → u = 0x61#8 ∨ u = 0x62#8 ∨ u = 0x63#8 := by
    intro u hu
    by_contra hc
    simp only [not_or] at hc
    apply hu
    simp only [tableA]
    rw [ctAt_ctSet_ne _ _ _ _ hc.2.2, ctAt_ctSet_ne _ _ _ _ hc.2.1, ctAt_ctSet_ne _ _ _ _ hc.1, ctAt_emptyTable]
    rfl
  have hd : ∀ a ∈ [0x61#8, 0x62#8, 0x63#8], ∀ b ∈ [0x61#8, 0x62#8, 0x63#8], a ≠ b →
      ¬ symCode tableA a <+: symCode tableA b := by
    unfold symCode
    decide +kernel
  exact hd s (by simpa using key s hs) t (by simpa using key t ht) hne hp

/-- The two clauses of DarmArms: DCNT = 0, a valid table, and a table Validate rejects. -/
theorem witness_DarmArms :
    State.reset.latch.err = false ∧ State.reset.phase = .idle ∧ State.reset.dec.dcnt = 0#32 ∧ validate tableA = none ∧
      { State.reset with dec := ⟨1#32, 0#32, []⟩ }.dec.dcnt ≠ 0#32 ∧ validate State.reset.ct = some 0x80000000#32 := by
  decide +kernel

/-- V-D5 and V-D1: E2 over table A with DCNT = 6 leaves r = "0", with DCNT = 5 the padding bit is ignored. -/
theorem witness_DinDecodes :
    (decoding 6#32).latch.err = false ∧ (decoding 6#32).phase = .decode ∧ validate (decoding 6#32).ct = none ∧
      (decoding 6#32).dec.cand = [] ∧ (decoding 6#32).dec.doutcnt.toNat < (decoding 6#32).dec.dcnt.toNat ∧
      (∀ x ∈ [0x61#8, 0x61#8, 0x61#8, 0x62#8, 0x63#8], HasCode (decoding 6#32).ct x) ∧
      (decoding 6#32).dec.cand ++ bitsOfByte 0xE2#8 =
        messageBits (decoding 6#32).ct [0x61#8, 0x61#8, 0x61#8, 0x62#8, 0x63#8] ++ [false] ∧
      0 + 5 < (decoding 6#32).dec.dcnt.toNat ∧ 0 + 5 = (decoding 5#32).dec.dcnt.toNat ∧
      { decoding 5#32 with dec := ⟨5#32, 5#32, []⟩ }.dec.doutcnt = 5#32 := by
  unfold HasCode messageBits symCode
  decide +kernel

/-- The rest "0" of V-D5 is a proper prefix of a code. -/
theorem witness_DinDecodes_rest : StartsACode (decoding 6#32).ct [false] :=
  ⟨0x62#8, by unfold HasCode; decide +kernel, by unfold symCode; decide +kernel, by unfold symCode; decide +kernel⟩

/-- V-D8: over the incomplete table 61 "0", 62 "10" the byte C0 is dead at its second bit. -/
theorem witness_DinDeadEnd :
    let ct := ctSet (ctSet emptyTable 0x61#8 ⟨1#8, 0#256⟩) 0x62#8 ⟨2#8, 2#256⟩
    let s := { decoding 2#32 with ct := ct }
    s.latch.err = false ∧ s.phase = .decode ∧ validate s.ct = none ∧ s.dec.cand = [] ∧
      s.dec.cand ++ bitsOfByte 0xC0#8 = messageBits s.ct [] ++ [true] ++ true :: [false, false, false, false, false, false] ∧
      canStillMatch s.ct [true] = true ∧ canStillMatch s.ct [true, true] = false ∧ matchedSymbol s.ct [true, true] = none ∧
      s.dec.doutcnt.toNat + 0 < s.dec.dcnt.toNat := by
  unfold messageBits symCode
  decide +kernel

/-- The same hypotheses in the statement's words. -/
theorem witness_DinDeadEnd_prefixes :
    let ct := ctSet (ctSet emptyTable 0x61#8 ⟨1#8, 0#256⟩) 0x62#8 ⟨2#8, 2#256⟩
    StartsACode ct [true] ∧ ¬ StartsACode ct ([true] ++ [true]) ∧ ∀ x, HasCode ct x → symCode ct x ≠ [true] ++ [true] := by
  intro ct
  obtain ⟨-, -, -, -, -, h1, h2, h3, -⟩ := witness_DinDeadEnd
  refine ⟨(canStillMatch_iff ct _).mp h1, fun h => ?_, fun x hx => matchedSymbol_none ct _ h3 x hx⟩
  rw [← canStillMatch_iff] at h
  exact absurd (h2.symm.trans h) (by decide)

theorem witness_DendCloses :
    (decoding 5#32).latch.err = false ∧ (decoding 5#32).phase = .decode ∧
      (decoding 5#32).dec.doutcnt.toNat < (decoding 5#32).dec.dcnt.toNat ∧
      { decoding 5#32 with dec := ⟨5#32, 5#32, []⟩ }.dec.dcnt.toNat ≤ 5 := by decide +kernel

theorem witness_RoundTrip :
    let s := { State.reset with ct := tableA }
    s.latch.err = false ∧ s.phase = .idle ∧ validate s.ct = none ∧
      (∀ b ∈ [0x61#8, 0x61#8, 0x61#8, 0x62#8, 0x63#8], HasCode s.ct b) ∧
      [0x61#8, 0x61#8, 0x61#8, 0x62#8, 0x63#8].length ≤ 2 ^ 32 - 1 := by
  unfold HasCode
  decide +kernel

theorem witness_NarrowOrMisalignedIsBusError :
    (0x002#12 : BitVec 12).toNat % 4 ≠ 0 ∧ (0b0111#4 : BitVec 4) ≠ 0b1111#4 := by decide

/-- Reserved offsets beside the map: 0x02C and 0x800. -/
theorem witness_SilentAccesses :
    (0x02C#12 : BitVec 12).toNat % 4 = 0 ∧ regAt 0x02C#12 = none ∧ (0x800#12 : BitVec 12).toNat % 4 = 0 ∧ regAt 0x800#12 = none := by
  decide +kernel

/-- No register stands at 0x800. -/
theorem witness_SilentAccesses_offset : ∀ r, regOffset r ≠ 0x800#12 := by
  intro r
  cases r with
  | freq s => revert s; decide
  | ctCode k => revert k; decide
  | _ => decide

theorem witness_CmdWriteSubmits : State.reset.slot = none ∧ (withSlot 0#32 State.reset).slot ≠ none := by decide +kernel

theorem witness_ConfigWrites :
    (withSlot 0#32 State.reset).slot ≠ none ∧ packing.phase ≠ .idle ∧ State.reset.slot = none ∧ State.reset.phase = .idle := by
  decide +kernel

theorem witness_DataOutPops : State.reset.outq = [] ∧ { State.reset with outq := [0xE2#8] }.outq = [0xE2#8] := by decide +kernel

theorem witness_BusyEngineReadIsFree : (withSlot 0#32 State.reset).slot ≠ none := by decide +kernel

/-- A host-owned register while BUSY = 1, an engine-owned one with BUSY = 0, and the bounds of the value clauses met. -/
theorem witness_ReadsReturnRegisters :
    (withSlot 0#32 State.reset).slot ≠ none ∧ Reg.errcmd ≠ .dataOut ∧ State.reset.slot = none ∧ Reg.total ≠ .dataOut ∧
      State.reset.cfg.outqDepth ≤ 65535 ∧ State.reset.outq.length ≤ 65535 ∧ State.reset.dec.cand.length ≤ 255 := by
  decide +kernel

/-- Just below NODECNT and at it. -/
theorem witness_NodeWindow :
    let s := { State.reset with tree := { State.reset.tree with count := 5#9 }, nodeSel := 4#9 }
    s.slot = none ∧ s.nodeSel.toNat < s.tree.count.toNat ∧ { s with nodeSel := 5#9 }.tree.count.toNat ≤ 5 := by decide +kernel

theorem witness_LoadctLoadsEntry : State.reset.slot = none ∧ State.reset.phase = .idle := by decide +kernel

theorem witness_WaitEndsOnlyWhenDrained :
    let s := { State.reset with env := { Env.initial with script := [.wait, .drain] } }
    s.env.script = .wait :: [.drain] ∧ s.slot = none ∧ s.outq = [] ∧ { s with outq := [1#8] }.outq ≠ [] ∧
      (withSlot 0#32 s).slot ≠ none := by decide +kernel

theorem witness_StepKeepsTotal : ∃ t, TotalInv State.reset ∧ step State.reset = .next t :=
  ⟨_, by unfold TotalInv freqSum; decide +kernel, rfl⟩

theorem witness_StepKeepsOutqBound : ∃ t, OutqInv State.reset ∧ step State.reset = .next t :=
  ⟨_, by unfold OutqInv; decide +kernel, rfl⟩

theorem witness_StepKeepsNodeCount : ∃ t, NodeCountInv State.reset ∧ step State.reset = .next t := ⟨_, .inl rfl, rfl⟩

/-- A state inside a decoding session that meets the session invariant, with a pending candidate. -/
theorem witness_session_state : SessionInv { decoding 6#32 with dec := ⟨6#32, 5#32, [false]⟩ } where
  pending_in_pack := fun _ => rfl
  accv_fits := by decide +kernel
  bits_bounded := by decide +kernel
  cand_in_decode := fun h => absurd rfl h
  error_is_idle := fun h => absurd h (by decide +kernel)
  decoded_within := fun _ => by decide +kernel
  table_validated := fun _ _ => by decide +kernel
  cand_starts_code := fun _ => witness_DinDecodes_rest
  cand_short := fun _ => by decide +kernel

theorem witness_StepKeepsSessions :
    ∃ s t, SessionInv s ∧ s.dec.cand ≠ [] ∧ step s = .next t :=
  ⟨_, _, witness_session_state, by decide, rfl⟩

/-- The clauses of EffectsAppearAtCompletion: a CMD write, an enabled command, a held one, and a turn of the host. -/
theorem witness_EffectsAppearAtCompletion :
    (∃ t, State.reset.slot = none ∧
      step { State.reset with env := { Env.initial with script := [scriptWrite .cmd 7#32] } } = .next t ∧ t.slot ≠ none) ∧
    (∃ t, (withTurns [.engine] (withSlot 0#32 State.reset)).slot = some 0#32 ∧
      step (withTurns [.engine] (withSlot 0#32 State.reset)) = .next t) ∧
    (∃ t, step (withTurns [.engine] (withSlot 0x31000061#32 { packing with outq := List.replicate 33 0#8 })) = .next t ∧
      packing.latch.err = false ∧ packing.cfg.outqDepth < 33 + need (wordOp 0x31000061#32)) ∧
    ∃ t, step (withTurns [.host] (withSlot 0#32 State.reset)) = .next t :=
  ⟨⟨_, rfl, rfl, by decide⟩, ⟨_, rfl, rfl⟩, ⟨_, rfl, rfl, by decide⟩, ⟨_, rfl⟩⟩

/-- A run that has ended with OUTQ empty, and one that has ended with a byte left on purpose. -/
theorem witness_EndedRunsStayEnded :
    runEnded false State.reset = true ∧ State.reset.env.turns = [] ∧ runEnded true { State.reset with outq := [1#8] } = true ∧
      runEnded false { State.reset with outq := [1#8] } = false ∧ (withTurns [.host] State.reset).env.turns = [.host] := by
  decide +kernel

end Sys2Proof.Tests
end

section
/-! SUPPORT. What a step is made of: the frame of a transaction and of the host's turn (20_memory R85), what a command leaves
at the end of its rule or after its raise, the opcode field of a decoded word, and an invariant proved by the parts of a step. -/

namespace Sys2Proof.Machine

/-! ### What a transaction can change -/

/-- What an accepted configuration write can change: a table entry or DCNT (R50, R51, R56). -/
theorem storeConfig_frame (r : Reg) (v : Word) (s : State) :
    storeConfig r v s =
      { s with ct := (storeConfig r v s).ct, dec := { s.dec with dcnt := (storeConfig r v s).dec.dcnt } } := by
  cases r <;> rfl

/-- A write of INTPEND clears CMDDONE when its bit 0 is 1 (R33). -/
theorem storePlain_intpend (v : Word) (s : State) :
    storePlain .intpend v s = { s with cmdDone := s.cmdDone && !v.getLsbD 0 } := by
  simp only [storePlain]
  cases v.getLsbD 0 <;> simp

/-- What any other write can change: INTEN, CMDDONE and the selectors (R32, R33, R45, R49). -/
theorem storePlain_frame (r : Reg) (v : Word) (s : State) :
    storePlain r v s =
      { s with
        inten := (storePlain r v s).inten
        cmdDone := (storePlain r v s).cmdDone
        ctSel := (storePlain r v s).ctSel
        nodeSel := (storePlain r v s).nodeSel } := by
  cases r
  case intpend => rw [storePlain_intpend]
  all_goals rfl

/-- What a read can change: the head of OUTQ leaves at DATA_OUT, and the model counts a free value (R34, R85, R87). -/
theorem readReg_frame (r : Reg) (s : State) :
    (readReg r s).2 = { s with outq := (readReg r s).2.outq, env := (readReg r s).2.env } := by
  obtain ⟨-, -, h⟩ | ⟨-, -, h⟩ | ⟨-, -, h⟩ := readReg_cases r s <;> rw [h]
  rfl

/-- What a write can change (R85, R88, R120). -/
theorem writeReg_frame (r : Reg) (v : Word) (s : State) :
    let t := (writeReg r v s).2
    t = { s with
      slot := t.slot
      berr := t.berr
      inten := t.inten
      cmdDone := t.cmdDone
      ct := t.ct
      dec := { s.dec with dcnt := t.dec.dcnt }
      ctSel := t.ctSel
      nodeSel := t.nodeSel } := by
  intro t
  rcases writeReg_cases r v s with ⟨-, -, h⟩ | h | ⟨-, -, -, h⟩ | ⟨-, -, h⟩ <;> simp only [t, h]
  · rfl
  · rw [storeConfig_frame]
  · rw [storePlain_frame]

/-- The frame of every transaction (R85): the frequencies, the tree, the packer, the error latch, PHASE, DOUTCNT, CAND and the
parameter stay. -/
theorem access_frame (tx : BusTx) (s : State) :
    let t := (access tx s).2
    t = { s with
      slot := t.slot
      berr := t.berr
      inten := t.inten
      cmdDone := t.cmdDone
      outq := t.outq
      ct := t.ct
      dec := { s.dec with dcnt := t.dec.dcnt }
      ctSel := t.ctSel
      nodeSel := t.nodeSel
      env := t.env } := by
  intro t
  rcases access_cases tx s with h | h | ⟨_, r, -, -, h⟩ | ⟨_, r, v, -, -, h⟩ <;> simp only [t, h]
  · rfl
  · rw [readReg_frame]
  · rw [writeReg_frame]

/-- OUTQ only loses its head in a transaction (R34, R36). -/
theorem access_outq (tx : BusTx) (s : State) : (access tx s).2.outq = s.outq ∨ (access tx s).2.outq = s.outq.tail := by
  rcases access_cases tx s with h | h | ⟨_, r, -, -, h⟩ | ⟨_, r, v, -, -, h⟩ <;> rw [h]
  · exact .inl rfl
  · exact .inl rfl
  · rcases readReg_cases r s with ⟨-, -, h⟩ | ⟨-, -, h⟩ | ⟨-, -, h⟩ <;> rw [h]
    · exact .inl rfl
    · exact .inr rfl
    · exact .inl rfl
  · exact .inl (by rw [writeReg_frame])

/-- The code table and DCNT change only with BUSY = 0 and PHASE = IDLE (R88). -/
theorem access_config (tx : BusTx) (s : State) :
    ((access tx s).2.ct = s.ct ∧ (access tx s).2.dec = s.dec) ∨ (s.slot = none ∧ s.phase = .idle) := by
  rcases access_cases tx s with h | h | ⟨_, r, -, -, h⟩ | ⟨_, r, v, -, -, h⟩ <;> rw [h]
  · exact .inl ⟨rfl, rfl⟩
  · exact .inl ⟨rfl, rfl⟩
  · exact .inl (by rw [readReg_frame]; exact ⟨rfl, rfl⟩)
  · rcases writeReg_cases r v s with ⟨-, -, h⟩ | h | ⟨-, hb, hp, h⟩ | ⟨-, -, h⟩ <;> rw [h]
    · exact .inl ⟨rfl, rfl⟩
    · exact .inl ⟨rfl, rfl⟩
    · exact .inr ⟨by simpa [busy] using hb, hp⟩
    · exact .inl (by simp only; rw [storePlain_frame]; exact ⟨rfl, rfl⟩)

/-- The host's turn is nothing, or one transaction with bookkeeping in the surroundings before and after it (R7, R109). -/
theorem hostStep_cases (s : State) :
    hostStep s = s ∨
      ∃ tx u, (u = s ∨ ∃ ops, u = setScript ops s) ∧ hostStep s = { (access tx u).2 with env := (hostStep s).env } := by
  cases hscript : s.env.script with
  | nil => exact .inl (by simp only [hostStep, hscript])
  | cons op rest =>
    right
    cases op <;> simp only [hostStep, hscript]
    case bus tx =>
      refine ⟨tx, setScript rest s, .inr ⟨rest, rfl⟩, ?_⟩
      unfold transact
      generalize access tx (setScript rest s) = p
      rfl
    case readAsserting addr v =>
      refine ⟨.read addr false, s, .inl rfl, ?_⟩
      generalize access (.read addr false) s = p
      rfl
    case wait | drain =>
      refine ⟨readStatusTx, s, .inl rfl, ?_⟩
      generalize access readStatusTx s = p
      rfl
    case take =>
      refine ⟨readDataOutTx, s, .inl rfl, ?_⟩
      generalize access readDataOutTx s = p
      rfl

/-! ### What a command can change -/

/-- The state at the end of a command's rule, or at its raise. -/
def Effect.state : Effect → State
  | .done t => t
  | .raise _ _ t => t

@[simp] theorem Effect.state_done (t : State) : (Effect.done t).state = t := rfl
@[simp] theorem Effect.state_raise (c : ErrCode) (x : Word) (t : State) : (Effect.raise c x t).state = t := rfl

/-- A property of the state a command leaves: at the end of its rule, or after the error entry of its raise (R240). -/
def Effect.Leaves (P : State → Prop) : Effect → Prop
  | .done t => P t
  | .raise c x t => ∀ w, P (errorEntry c x w t)

/-- A property that the error entry keeps need only be shown of the state at the end of the rule or at the raise. -/
theorem Effect.leaves_of_state {P : State → Prop} (herr : ∀ c x w t, P t → P (errorEntry c x w t)) (e : Effect)
    (h : P e.state) : e.Leaves P := by
  cases e with
  | done t => exact h
  | raise c x t => exact fun w => herr c x w t h

/-- The opcode field of a command's word (R100). -/
theorem wordOp_encode (i : Instr) : wordOp (encode i) = opcodeOf i.mnemonic := by
  ext j hj
  simp only [wordOp, encode, BitVec.getElem_extractLsb', BitVec.getLsbD_append]
  rw [if_neg (by omega), if_neg (by omega), show 24 + j - 8 - 16 = j by omega, BitVec.getLsbD_eq_getElem hj]

@[simp] theorem instrOf_mnemonic (m : Mnemonic) (imm : Byte) : (instrOf m imm).mnemonic = m := by
  cases m <;> rfl

/-- Every row of R103 fixes the whole opcode field, to its mnemonic's opcode. -/
theorem opcodeTable_wordOp :
    ∀ r ∈ opcodeTable, wordOp r.mask = 0xFF#8 ∧ wordOp r.pattern = opcodeOf r.mnemonic := by decide

/-- A word decodes to a command of its own opcode (R103, R104). -/
theorem wordOp_of_decode (w : Word) (i : Instr) (h : decode w = .ok i) : wordOp w = wordOp (encode i) := by
  unfold decode at h
  split at h
  · rename_i r hf
    cases h
    obtain ⟨hmask, hpattern⟩ := opcodeTable_wordOp r (List.mem_of_find?_eq_some hf)
    have hmatch : w &&& r.mask = r.pattern := by simpa [rowMatches] using List.find?_some hf
    calc wordOp w = wordOp w &&& wordOp r.mask := by rw [hmask]; exact (BitVec.and_allOnes).symm
      _ = wordOp r.pattern := by rw [← hmatch]; exact BitVec.extractLsb'_and.symm
      _ = wordOp (encode (instrOf r.mnemonic (wordImm w))) := by rw [hpattern, wordOp_encode, instrOf_mnemonic]
  · cases h

/-- When the engine executes a command that is not discarded or refused (R121 to R123, R245): it may run while ERR = 1 or ERR is 0
and OUTQ has the room it waits for, and its phase allows it. -/
structure Runs (i : Instr) (s : State) : Prop where
  allowed : allowed i.mnemonic s.phase = true
  ready : runsInError i.mnemonic = true ∨ s.latch.err = false ∧ s.outq.length + need (wordOp (encode i)) ≤ s.cfg.outqDepth

/-- An invariant by parts: what each thing a step is made of has to keep. -/
structure KeptByParts (P : State → Prop) : Prop where
  surroundings : ∀ s e, P s → P { s with env := e }
  transaction : ∀ tx s, P s → P (access tx s).2
  reset : ∀ s, P s → P (resetBlock s)
  completion : ∀ b s, P s → P (complete b s)
  error : ∀ c x w s, P s → P (errorEntry c x w s)
  command : ∀ i s, P s → Runs i s → (effectOf i s).Leaves P

namespace KeptByParts
variable {P : State → Prop} (h : KeptByParts P)
include h

/-- The host's turn keeps it: a transaction between two changes of the surroundings. -/
theorem keeps_hostStep {s : State} (hs : P s) : P (hostStep s) := by
  obtain heq | ⟨tx, u, rfl | ⟨ops, rfl⟩, heq⟩ := hostStep_cases s <;> rw [heq]
  · exact hs
  · exact h.surroundings _ _ (h.transaction tx _ hs)
  · exact h.surroundings _ _ (h.transaction tx _ (h.surroundings s _ hs))

/-- Execute keeps it when the command was enabled: the error entry and the command's own rule do. -/
theorem keeps_execute {i : Instr} {s : State} (hs : P s)
    (hroom : s.latch.err = true ∨ s.outq.length + need (wordOp (encode i)) ≤ s.cfg.outqDepth) :
    P (execute i (effectOf i) s) := by
  rcases execute_cases i (effectOf i) s with ⟨-, -, heq⟩ | ⟨-, -, heq⟩ | ⟨hrun, hallow, hout⟩
  · rwa [heq]
  · rw [heq]
    exact h.error _ _ _ s hs
  · have hruns : Runs i s := ⟨hallow, by
      rcases hrun with he | hr
      · exact .inr ⟨he, hroom.resolve_left (by simp [he])⟩
      · exact .inl hr⟩
    have hleaves := h.command i s hs hruns
    rcases hout with ⟨t, heff, heq⟩ | ⟨c, x, t, heff, heq⟩ <;> rw [heff] at hleaves <;> rw [heq]
    · exact hleaves
    · exact hleaves (encode i)

/-- The engine's turn keeps it; its enabling condition is the room the command asks for (R121). -/
theorem keeps_engineStep {s t : State} (hs : P s) (hstep : engineStep s = .next t) : P t := by
  rcases engineStep_cases s with ⟨-, heq⟩ | ⟨w, hslot, hready, ⟨i, hdec, heq⟩ | ⟨_, -, heq⟩⟩ <;> rw [heq] at hstep
  · cases hstep
    exact hs
  · rw [exec_next] at hstep
    cases hstep
    refine h.completion _ _ (h.keeps_execute hs ?_)
    rw [← wordOp_of_decode w i hdec]
    simpa [engineReady, hslot, hasRoom, outCount, Nat.add_comm] using hready
  · rw [runIllegal_next] at hstep
    cases hstep
    refine h.completion _ _ ?_
    split
    · exact hs
    · exact h.error _ _ _ s hs

/-- An invariant kept by every part is kept by every step. -/
theorem keeps_step {s t : State} (hs : P s) (hstep : step s = .next t) : P t := by
  obtain ⟨u, hu, hcase⟩ := step_cases s
  have hPu : P u := by
    rcases hu with rfl | ⟨rest, rfl⟩
    · exact hs
    · exact h.surroundings s _ hs
  rcases hcase with heq | heq | heq <;> rw [heq] at hstep
  · exact h.keeps_engineStep hPu hstep
  · cases hstep
    exact h.keeps_hostStep hPu
  · cases hstep
    exact h.reset u hPu

end KeptByParts

end Sys2Proof.Machine
end

section
/-! SUPPORT. What each command's rule can change and how much it pushes (40_control R122, 60_exceptions R241). -/

namespace Sys2Proof.Machine

/-! ### The frames of the effects -/

/-- FADD changes the frequencies and TOTAL only (R142). -/
theorem faddEffect_frame (sym : Byte) (s : State) :
    let t := (faddEffect sym s).state
    t = { s with freq := t.freq, total := t.total } := by
  simp only [faddEffect]
  split <;> rfl

/-- BUILD changes the tree, the heap, the code table and the count of draws only (R160). -/
theorem buildEffect_frame (s : State) :
    let t := (buildEffect s).state
    t = { s with tree := t.tree, heap := t.heap, ct := t.ct, env := t.env } := by
  simp only [buildEffect]
  split <;> rfl

/-- PKB changes OUTQ and the packer only (R191). -/
theorem pkbEffect_frame (sym : Byte) (s : State) :
    let t := (pkbEffect sym s).state
    t = { s with outq := t.outq, pk := t.pk } := by
  simp only [pkbEffect]
  split
  · rfl
  split <;> rfl

/-- PKEND changes OUTQ, the packer and PHASE only (R192). -/
theorem pkendEffect_frame (s : State) :
    let t := (pkendEffect s).state
    t = { s with outq := t.outq, pk := t.pk, phase := t.phase } := by
  simp only [pkendEffect]
  split <;> rfl

/-- DARM changes the decoder and PHASE only (R212). -/
theorem darmEffect_frame (s : State) :
    let t := (darmEffect s).state
    t = { s with dec := t.dec, phase := t.phase } := by
  simp only [darmEffect]
  split
  · rfl
  split <;> rfl

/-- Feeding bits changes OUTQ, DOUTCNT and CAND only (R213, R214). -/
theorem feedBits_frame (bs : Bits) (s : State) :
    let t := (feedBits bs s).state
    t = { s with outq := t.outq, dec := { s.dec with doutcnt := t.dec.doutcnt, cand := t.dec.cand } } := by
  intro t
  induction bs generalizing s with
  | nil => rfl
  | cons b bs ih =>
    simp only [t, feedBits]
    split
    · rfl
    · rcases stepBit_cases b s with ⟨sym, -, h⟩ | ⟨-, -, h⟩ | ⟨-, -, h⟩ <;> simp only [h]
      · rw [ih]; rfl
      · rw [ih]
      · rfl

/-- DEND changes the candidate and PHASE only (R215). -/
theorem dendEffect_frame (s : State) :
    let t := (dendEffect s).state
    t = { s with dec := t.dec, phase := t.phase } := by
  simp only [dendEffect]
  split <;> rfl

/-- No command but SRST, FCLR and FADD changes the frequencies or TOTAL (R37, R38). -/
theorem effectOf_counts (i : Instr) (s : State) (hsrst : i ≠ .srst) (hfclr : i ≠ .fclr) (hfadd : ∀ sym, i ≠ .fadd sym) :
    (effectOf i s).state.freq = s.freq ∧ (effectOf i s).state.total = s.total := by
  cases i with
  | srst => exact absurd rfl hsrst
  | fclr => exact absurd rfl hfclr
  | fadd sym => exact absurd rfl (hfadd sym)
  | build => simp only [effectOf]; rw [buildEffect_frame]; exact ⟨rfl, rfl⟩
  | pkb sym => simp only [effectOf]; rw [pkbEffect_frame]; exact ⟨rfl, rfl⟩
  | pkend => simp only [effectOf]; rw [pkendEffect_frame]; exact ⟨rfl, rfl⟩
  | darm => simp only [effectOf]; rw [darmEffect_frame]; exact ⟨rfl, rfl⟩
  | din b => simp only [effectOf, dinEffect]; rw [feedBits_frame]; exact ⟨rfl, rfl⟩
  | dend => simp only [effectOf]; rw [dendEffect_frame]; exact ⟨rfl, rfl⟩
  | nop | errclr | ctclr | pkstart => exact ⟨rfl, rfl⟩

/-- No command but SRST and BUILD changes the tree (R41, R43, R44). -/
theorem effectOf_tree (i : Instr) (s : State) (hsrst : i ≠ .srst) (hbuild : i ≠ .build) :
    (effectOf i s).state.tree = s.tree := by
  cases i with
  | srst => exact absurd rfl hsrst
  | build => exact absurd rfl hbuild
  | fadd sym => simp only [effectOf]; rw [faddEffect_frame]
  | pkb sym => simp only [effectOf]; rw [pkbEffect_frame]
  | pkend => simp only [effectOf]; rw [pkendEffect_frame]
  | darm => simp only [effectOf]; rw [darmEffect_frame]
  | din b => simp only [effectOf, dinEffect]; rw [feedBits_frame]
  | dend => simp only [effectOf]; rw [dendEffect_frame]
  | nop | errclr | fclr | ctclr | pkstart => rfl

/-- No command changes the parameters (R6). -/
theorem effectOf_cfg (i : Instr) (s : State) : (effectOf i s).state.cfg = s.cfg := by
  cases i with
  | fadd sym => simp only [effectOf]; rw [faddEffect_frame]
  | build => simp only [effectOf]; rw [buildEffect_frame]
  | pkb sym => simp only [effectOf]; rw [pkbEffect_frame]
  | pkend => simp only [effectOf]; rw [pkendEffect_frame]
  | darm => simp only [effectOf]; rw [darmEffect_frame]
  | din b => simp only [effectOf, dinEffect]; rw [feedBits_frame]
  | dend => simp only [effectOf]; rw [dendEffect_frame]
  | nop | srst | errclr | fclr | ctclr | pkstart => rfl

/-! ### What the commands push -/

/-- A bit pushes at most one byte, at the tail of OUTQ (R213, R214). -/
theorem feedBits_outq (bs : Bits) (s : State) :
    ∃ out, (feedBits bs s).state.outq = s.outq ++ out ∧ out.length ≤ bs.length := by
  induction bs generalizing s with
  | nil => exact ⟨[], by simp [feedBits]⟩
  | cons b bs ih =>
    simp only [feedBits]
    split
    · exact ⟨[], by simp⟩
    · rcases stepBit_cases b s with ⟨sym, -, h⟩ | ⟨-, -, h⟩ | ⟨-, -, h⟩ <;> simp only [h]
      · obtain ⟨out, ho, hl⟩ := ih
          { pushBytes [sym] s with dec := { s.dec with doutcnt := s.dec.doutcnt + 1#32, cand := [] } }
        exact ⟨sym :: out, by rw [ho]; simp, by simpa using hl⟩
      · obtain ⟨out, ho, hl⟩ := ih { s with dec := { s.dec with cand := s.dec.cand ++ [b] } }
        exact ⟨out, ho, Nat.le_succ_of_le hl⟩
      · exact ⟨[], by simp⟩

/-- The pending bits of the packer are ACCN many (R52). -/
@[simp] theorem pendingBits_length (p : Packer) : (pendingBits p).length = p.accn.toNat := bitsOf_length _ _

/-- At most seven pending bits and 255 code bits make at most 32 bytes (R122, R191). -/
theorem pkbEffect_outq (sym : Byte) (s : State) :
    ∃ out, (pkbEffect sym s).state.outq = s.outq ++ out ∧ out.length ≤ 32 := by
  simp only [pkbEffect]
  split
  · exact ⟨[], by simp⟩
  split
  · exact ⟨[], by simp⟩
  · refine ⟨_, rfl, ?_⟩
    obtain ⟨-, -, hlen⟩ := packBytes_spec (pendingBits s.pk ++ codeOf (ctAt s.ct sym))
    simp only [List.length_append, pendingBits_length, codeOf_length] at hlen
    omega

/-- PKEND pushes the padded final byte or nothing (R192). -/
theorem pkendEffect_outq (s : State) : ∃ out, (pkendEffect s).state.outq = s.outq ++ out ∧ out.length ≤ 1 := by
  simp only [pkendEffect]
  split
  · exact ⟨[], by simp⟩
  · exact ⟨[paddedByte s.pk], rfl, by simp⟩

/-- A command pushes at most NEED bytes, at the tail of OUTQ, whether its rule ends or raises (R122, R36). -/
theorem effectOf_outq (i : Instr) (s : State) (hi : i ≠ .srst) :
    ∃ out, (effectOf i s).state.outq = s.outq ++ out ∧ out.length ≤ need (wordOp (encode i)) := by
  rw [wordOp_encode]
  cases i with
  | srst => exact absurd rfl hi
  | pkb sym => exact pkbEffect_outq sym s
  | pkend => exact pkendEffect_outq s
  | din b => exact feedBits_outq (bitsOfByte b) s
  | fadd sym => simp only [effectOf]; rw [faddEffect_frame]; exact ⟨[], by simp⟩
  | build => simp only [effectOf]; rw [buildEffect_frame]; exact ⟨[], by simp⟩
  | darm => simp only [effectOf]; rw [darmEffect_frame]; exact ⟨[], by simp⟩
  | dend => simp only [effectOf]; rw [dendEffect_frame]; exact ⟨[], by simp⟩
  | nop | errclr | fclr | ctclr | pkstart => exact ⟨[], by simp [effectOf, fclrEffect, ctclrEffect, pkstartEffect]⟩

end Sys2Proof.Machine
end

section
/-! PROOFS. Steps keep TOTAL, the bound of OUTQ and NODECNT (10_state R62 (a), (d), (e)). -/

namespace Sys2Proof.Machine

/-! ### TOTAL -/

/-- Replacing one frequency replaces its summand (R38). -/
theorem freqSum_setFreq (sym : Byte) (v : Word) (s : State) :
    freqSum (setFreq sym v s) + (freqAt s sym).toNat = freqSum s + v.toNat := by
  have hlt : sym.toNat < (s.freq.toList.map BitVec.toNat).length := by simpa using sym.isLt
  have hnew := List.sum_set (s.freq.toList.map BitVec.toNat) sym.toNat v.toNat
  have hold := List.sum_set (s.freq.toList.map BitVec.toNat) sym.toNat (s.freq.toList.map BitVec.toNat)[sym.toNat]
  have hat : (s.freq.toList.map BitVec.toNat)[sym.toNat] = (freqAt s sym).toNat := by simp [freqAt]
  rw [if_pos hlt] at hnew hold
  rw [List.set_getElem_self, hat] at hold
  simp only [freqSum, setFreq_freq, Vector.toList_set, List.map_set]
  omega

/-- A frequency is at most the sum of all (R38). -/
theorem freqAt_le_freqSum (sym : Byte) (s : State) : (freqAt s sym).toNat ≤ freqSum s := by
  have h := freqSum_setFreq sym 0#32 s
  simp only [BitVec.toNat_ofNat] at h
  omega

/-- TotalInv speaks of the frequencies and TOTAL alone. -/
theorem TotalInv.congr {s t : State} (h : TotalInv s) (hcounts : t.freq = s.freq ∧ t.total = s.total) : TotalInv t := by
  unfold TotalInv freqSum
  rw [hcounts.1, hcounts.2]
  exact h

/-- 256 zero frequencies have the sum 0 (R61, R141). -/
theorem totalInv_of_zero (s : State) (hfreq : s.freq = Vector.replicate 256 0#32) (htotal : s.total = 0#32) : TotalInv s := by
  unfold TotalInv freqSum
  rw [hfreq, htotal, Vector.toList_replicate, List.map_replicate, List.sum_replicate]
  rfl

/-- FADD raises the frequency and TOTAL together; below 2^32 - 1 neither wraps (R142). -/
theorem totalInv_faddEffect (sym : Byte) (s : State) (h : TotalInv s) : TotalInv (faddEffect sym s).state := by
  simp only [faddEffect]
  split
  · exact h
  · rename_i hmax
    have hne : s.total.toNat ≠ 2 ^ 32 - 1 := fun hc => hmax (BitVec.eq_of_toNat_eq hc)
    have hset := freqSum_setFreq sym (freqAt s sym + 1#32) s
    have hle := freqAt_le_freqSum sym s
    have hlt := s.total.isLt
    unfold TotalInv at h ⊢
    show (s.total + 1#32).toNat = freqSum (setFreq sym (freqAt s sym + 1#32) s)
    rw [BitVec.toNat_add_of_lt (by simp; omega)] at hset ⊢
    simp only [BitVec.toNat_ofNat] at hset ⊢
    omega

/-- Every part of a step keeps TOTAL the sum (R38). -/
theorem totalInv_keptByParts : KeptByParts TotalInv where
  surroundings _ _ h := h
  transaction tx s h := by
    rw [access_frame]
    exact h
  reset _ _ := totalInv_of_zero _ rfl rfl
  completion _ _ h := h
  error _ _ _ _ h := h
  command i s h _ := by
    refine Effect.leaves_of_state (fun _ _ _ _ h => h) _ ?_
    cases i with
    | srst => exact totalInv_of_zero _ rfl rfl
    | fclr => exact totalInv_of_zero _ rfl rfl
    | fadd sym => exact totalInv_faddEffect sym s h
    | _ => exact h.congr (effectOf_counts _ s (by nofun) (by nofun) (by nofun))

/-- Settles O55, from the parts of a step: only FADD, FCLR and a reset touch the frequencies and TOTAL, and each keeps the sum. -/
theorem stepKeepsTotal : Obligations.StepKeepsTotal := by
  unfold Obligations.StepKeepsTotal
  intro s t h hstep
  exact totalInv_keptByParts.keeps_step h hstep

/-! ### OUTQ -/

/-- Only PKB, DIN and PKEND wait for room in OUTQ, and none of them runs while ERR = 1 (R122, R123). -/
theorem need_of_runsInError (i : Instr) (h : runsInError i.mnemonic = true) : need (wordOp (encode i)) = 0 := by
  cases i with
  | nop | srst | errclr => rfl
  | _ => cases h

/-- Every part of a step keeps OUTQ within its depth (R36). -/
theorem outqInv_keptByParts : KeptByParts OutqInv where
  surroundings _ _ h := h
  transaction tx s h := by
    obtain ⟨hmin, hmax, hlen⟩ := h
    have hout : (access tx s).2.outq.length ≤ s.outq.length := by
      rcases access_outq tx s with h | h <;> simp [h]
    have hcfg : (access tx s).2.cfg = s.cfg := by rw [access_frame]
    rw [OutqInv, hcfg]
    exact ⟨hmin, hmax, hout.trans hlen⟩
  reset s h := by
    obtain ⟨hmin, hmax, -⟩ := h
    exact ⟨hmin, hmax, Nat.zero_le _⟩
  completion _ _ h := h
  error _ _ _ _ h := h
  command i s h hruns := by
    refine Effect.leaves_of_state (fun _ _ _ _ h => h) _ ?_
    obtain ⟨hmin, hmax, hlen⟩ := h
    rw [OutqInv, effectOf_cfg]
    refine ⟨hmin, hmax, ?_⟩
    by_cases hi : i = .srst
    · subst hi
      exact Nat.zero_le _
    · obtain ⟨out, hout, hneed⟩ := effectOf_outq i s hi
      rw [hout, List.length_append]
      rcases hruns.ready with hr | ⟨-, hroom⟩
      · have := need_of_runsInError i hr
        omega
      · omega

/-- Settles O56, from the parts of a step: a command pushes at most NEED bytes, and the engine waits for that room. -/
theorem stepKeepsOutqBound : Obligations.StepKeepsOutqBound := by
  unfold Obligations.StepKeepsOutqBound
  intro s t h hstep
  exact outqInv_keptByParts.keeps_step h hstep

/-! ### NODECNT -/

/-- The merge loop never empties the queue (R150). -/
theorem mergeAll_pq_ne_nil (fuel : Nat) (f : Forest) (h : f.pq ≠ []) : (mergeAll fuel f).pq ≠ [] := by
  induction fuel generalizing f with
  | zero => exact h
  | succ n ih =>
    simp only [mergeAll]
    split
    · exact h
    · split
      · exact h
      · exact ih _ (List.cons_ne_nil _ _)

/-- BUILD uses 2n - 1 node indices for n leaves (R150, R44). -/
theorem buildForest_k (freq : Vector Word 256) (draw : Nat) (h : leavesOf freq ≠ []) :
    (buildForest freq draw).k = 2 * (leavesOf freq).length - 1 := by
  simp only [buildForest]
  generalize hf : Forest.mk (storeNodes (freeArena draw) 0 (leavesOf freq)) (leavesOf freq).length
    (keysOf 0 (leavesOf freq)) = f
  have hpq : f.pq.length = (leavesOf freq).length := by rw [← hf, keysOf_length]
  have hk : f.k = (leavesOf freq).length := by rw [← hf]
  have hpos := List.length_pos_iff.mpr h
  have hne := List.length_pos_iff.mpr (mergeAll_pq_ne_nil (leavesOf freq).length f (List.length_pos_iff.mp (by omega)))
  obtain ⟨hle, hsum⟩ := mergeAll_sizes (leavesOf freq).length f (by omega)
  omega

/-- After BUILD of at least one symbol, NODECNT is 2n - 1; of none, it stays (R159, R44). -/
theorem nodeCountInv_buildEffect (s : State) (h : NodeCountInv s) : NodeCountInv (buildEffect s).state := by
  simp only [buildEffect]
  split
  · exact h
  · rename_i hleaves
    have hne : leavesOf s.freq ≠ [] := by simpa using hleaves
    have hpos := List.length_pos_iff.mpr hne
    have hle := leavesOf_length_le s.freq
    refine .inr ⟨(leavesOf s.freq).length, hpos, hle, ?_⟩
    simp only [Effect.state_done, buildForest_k _ _ hne, BitVec.toNat_ofNat]
    omega

/-- Every part of a step keeps NODECNT 0 or 2n - 1 (R44). -/
theorem nodeCountInv_keptByParts : KeptByParts NodeCountInv where
  surroundings _ _ h := h
  transaction tx s h := by
    rw [access_frame]
    exact h
  reset _ _ := .inl rfl
  completion _ _ h := h
  error _ _ _ _ h := h
  command i s h _ := by
    refine Effect.leaves_of_state (fun _ _ _ _ h => h) _ ?_
    cases i with
    | srst => exact .inl rfl
    | build => exact nodeCountInv_buildEffect s h
    | _ =>
      rw [NodeCountInv, effectOf_tree _ s (by nofun) (by nofun)]
      exact h

/-- Settles O57, from the parts of a step: only BUILD and a reset write NODECNT, BUILD with 2n - 1 for its n leaves. -/
theorem stepKeepsNodeCount : Obligations.StepKeepsNodeCount := by
  unfold Obligations.StepKeepsNodeCount
  intro s t h hstep
  exact nodeCountInv_keptByParts.keeps_step h hstep

end Sys2Proof.Machine
end

section
/-! PROOFS. Steps keep the session invariants (10_state R62 (b), (c), (g), (h)). -/

namespace Sys2Proof.Machine

/-! ### The sessions -/

/-- A maximum taken along a list is at most n exactly when its start and every entry are. -/
theorem foldl_max_le_iff {α : Type} (f : α → Nat) (xs : List α) (m n : Nat) :
    xs.foldl (fun k x => max k (f x)) m ≤ n ↔ m ≤ n ∧ ∀ x ∈ xs, f x ≤ n := by
  induction xs generalizing m with
  | nil => simp
  | cons y ys ih => simp [ih, and_assoc]

/-- MAXLEN bounds every code, and is the least such bound (R40). -/
theorem longestCode_le_iff (ct : CodeTable) (n : Nat) : longestCode ct ≤ n ↔ ∀ e ∈ ct.toList, e.len.toNat ≤ n := by
  rw [longestCode, foldl_max_le_iff]
  exact and_iff_right (Nat.zero_le n)

/-- Every code is at most MAXLEN long (R40). -/
theorem len_le_longestCode (ct : CodeTable) (sym : Byte) : (ctAt ct sym).len.toNat ≤ longestCode ct :=
  (longestCode_le_iff ct _).mp (Nat.le_refl _) _ (by simp [ctAt])

/-- What properly starts a code is shorter than MAXLEN (R40, R213). -/
theorem StartsACode.length_lt {ct : CodeTable} {p : Bits} (h : StartsACode ct p) : p.length < longestCode ct := by
  obtain ⟨sym, -, -, hlt⟩ := h
  rw [symCode, codeOf_length] at hlt
  exact hlt.trans_le (len_le_longestCode ct sym)

/-- A state in IDLE or PACK without a candidate: what the decoder's registers owe is void, and the packer's part remains. -/
theorem SessionInv.of_not_decode {s : State} (hphase : s.phase ≠ .decode) (hcand : s.dec.cand = [])
    (herr : s.latch.err = true → s.phase = .idle) (hpend : s.phase ≠ .pack → s.pk.accn = 0#3)
    (hfits : s.pk.accv.toNat < 2 ^ s.pk.accn.toNat) (hbits : s.pk.bits.toNat ≤ 255 * s.pk.syms.toNat) : SessionInv s where
  pending_in_pack := hpend
  accv_fits := hfits
  bits_bounded := hbits
  cand_in_decode _ := hcand
  error_is_idle := herr
  decoded_within h := absurd h hphase
  table_validated h := absurd h hphase
  cand_starts_code h := absurd hcand h
  cand_short h := absurd hcand h

/-- The error entry closes every session, so only the bound on PKBITS has to hold before it (R240). -/
theorem sessionInv_errorEntry (c : ErrCode) (x w : Word) (s : State) (hbits : s.pk.bits.toNat ≤ 255 * s.pk.syms.toNat) :
    SessionInv (errorEntry c x w s) :=
  .of_not_decode (by simp) rfl (fun _ => rfl) (fun _ => rfl) (by simp) hbits

/-- A state with the packer's registers cleared, nothing pending in the decoder and no error (R61). -/
theorem sessionInv_resetBlock (s : State) : SessionInv (resetBlock s) :=
  .of_not_decode (by simp [resetBlock_eq]) rfl (fun _ => rfl) (fun _ => rfl) (by simp [resetBlock_eq]) (by simp [resetBlock_eq])

/-- In IDLE the session invariant does not look at the code table, the tree or DCNT (R88). -/
theorem SessionInv.congr_in_idle {s t : State} (h : SessionInv s) (hidle : s.phase = .idle) (hphase : t.phase = .idle)
    (hpk : t.pk = s.pk) (hcand : t.dec.cand = s.dec.cand) : SessionInv t :=
  .of_not_decode (by simp [hphase]) (hcand.trans (h.cand_in_decode (by simp [hidle]))) (fun _ => hphase)
    (fun _ => hpk ▸ h.pending_in_pack (by simp [hidle])) (hpk ▸ h.accv_fits) (hpk ▸ h.bits_bounded)

/-- Where the state at the end of a rule or at its raise meets the session invariant, so does the state it leaves. -/
theorem SessionInv.leaves {e : Effect} (h : SessionInv e.state) : e.Leaves SessionInv :=
  Effect.leaves_of_state (fun c x w t ht => sessionInv_errorEntry c x w t ht.bits_bounded) e h

/-- PKSTART clears the packer (R190). -/
theorem sessionInv_pkstartEffect (s : State) (h : SessionInv s) (hphase : s.phase = .idle) (herr : s.latch.err = false) :
    (pkstartEffect s).Leaves SessionInv :=
  .of_not_decode (by simp) (h.cand_in_decode (by simp [hphase])) (by simp [herr]) (by simp) (by simp) (by simp)

/-- PKB keeps the accumulator below a byte and adds at most 255 to PKBITS for its symbol (R191, R52, R54). -/
theorem sessionInv_pkbEffect (sym : Byte) (s : State) (h : SessionInv s) (hphase : s.phase = .pack)
    (herr : s.latch.err = false) : (pkbEffect sym s).Leaves SessionInv := by
  simp only [pkbEffect]
  split
  · exact fun w => sessionInv_errorEntry _ _ w s h.bits_bounded
  split
  · exact fun w => sessionInv_errorEntry _ _ w s h.bits_bounded
  · rename_i hmax
    obtain ⟨-, hrest, -⟩ := packBytes_spec (pendingBits s.pk ++ codeOf (ctAt s.ct sym))
    generalize packBytes (pendingBits s.pk ++ codeOf (ctAt s.ct sym)) = r at hrest
    refine .of_not_decode (by simp [hphase]) (h.cand_in_decode (by simp [hphase])) (by simp [herr]) (by simp [hphase]) ?_ ?_
    · have hlen : r.2.length < 8 := by omega
      have hpow : 2 ^ r.2.length ≤ 2 ^ 7 := Nat.pow_le_pow_right (by decide) (by omega)
      have hnum := num_lt r.2
      simp only [BitVec.toNat_ofNat]
      rw [Nat.mod_eq_of_lt (by omega), Nat.mod_eq_of_lt (by omega)]
      exact hnum
    · have hne : s.pk.syms.toNat ≠ 2 ^ 32 - 1 := fun hc => hmax (BitVec.eq_of_toNat_eq hc)
      have hlt := s.pk.syms.isLt
      have hlen := (ctAt s.ct sym).len.isLt
      have hbits := h.bits_bounded
      simp only [BitVec.toNat_add, BitVec.toNat_ofNat, BitVec.zeroExtend, BitVec.toNat_setWidth]
      omega

/-- PKEND leaves nothing pending (R192). -/
theorem sessionInv_pkendEffect (s : State) (h : SessionInv s) (hphase : s.phase = .pack) :
    (pkendEffect s).Leaves SessionInv := by
  have hcand := h.cand_in_decode (by simp [hphase])
  simp only [pkendEffect]
  split <;> exact .of_not_decode (by simp) hcand (by simp) (by simp) (by simp) h.bits_bounded

/-- DARM opens a session with no byte produced, on a validated table where bytes are due (R212). -/
theorem sessionInv_darmEffect (s : State) (h : SessionInv s) (hphase : s.phase = .idle) (herr : s.latch.err = false) :
    (darmEffect s).Leaves SessionInv := by
  have hopen (htable : s.dec.dcnt ≠ 0#32 → validate s.ct = none) : SessionInv (openDecode s) :=
    { pending_in_pack := fun _ => h.pending_in_pack (by simp [hphase])
      accv_fits := h.accv_fits
      bits_bounded := h.bits_bounded
      cand_in_decode := fun _ => rfl
      error_is_idle := by simp [herr]
      decoded_within := by simp
      table_validated := fun _ => htable
      cand_starts_code := by simp
      cand_short := by simp }
  simp only [darmEffect]
  split
  · rename_i hzero
    exact hopen fun hne => absurd hzero hne
  split
  · exact fun w => sessionInv_errorEntry _ _ w s h.bits_bounded
  · rename_i hvalid
    exact hopen fun _ => hvalid

/-- One bit of a session that has bytes to produce (R213): a matched code is one byte more, at most DCNT; an unmatched candidate
still starts a code, or the session ends in DEAD_END. -/
theorem sessionInv_stepBit (bit : Bool) (s : State) (h : SessionInv s) (hphase : s.phase = .decode)
    (hmore : s.dec.doutcnt ≠ s.dec.dcnt) : (stepBit bit s).Leaves SessionInv := by
  have hwithin := h.decoded_within hphase
  have hlt : s.dec.doutcnt.toNat < s.dec.dcnt.toNat :=
    Nat.lt_of_le_of_ne hwithin fun hc => hmore (BitVec.eq_of_toNat_eq hc)
  rcases stepBit_cases bit s with ⟨sym, -, heq⟩ | ⟨-, hcan, heq⟩ | ⟨-, -, heq⟩ <;> rw [heq]
  · exact
    { h with
      cand_in_decode := fun _ => rfl
      decoded_within := fun _ => by
        have := s.dec.dcnt.isLt
        simp only [BitVec.toNat_add, BitVec.toNat_ofNat]
        omega
      cand_starts_code := by simp
      cand_short := by simp }
  · have hstarts := (canStillMatch_iff _ _).mp hcan
    exact
    { h with
      cand_in_decode := fun hne => absurd hphase hne
      cand_starts_code := fun _ => hstarts
      cand_short := fun _ => hstarts.length_lt }
  · exact fun w => sessionInv_errorEntry _ _ w _ h.bits_bounded

/-- A bit leaves the session open unless it raises (R213). -/
theorem stepBit_done_phase {bit : Bool} {s t : State} (h : stepBit bit s = .done t) : t.phase = s.phase := by
  rcases stepBit_cases bit s with ⟨_, -, heq⟩ | ⟨-, -, heq⟩ | ⟨-, -, heq⟩ <;> rw [heq] at h <;> cases h <;> rfl

/-- The loop of R214 keeps the session invariant bit by bit. -/
theorem sessionInv_feedBits (bs : Bits) (s : State) (h : SessionInv s) (hphase : s.phase = .decode) :
    (feedBits bs s).Leaves SessionInv := by
  induction bs generalizing s with
  | nil => exact h
  | cons b bs ih =>
    simp only [feedBits]
    split
    · exact h
    · rename_i hmore
      have hbit := sessionInv_stepBit b s h hphase hmore
      cases heq : stepBit b s <;> rw [heq] at hbit
      case done t => exact ih t hbit ((stepBit_done_phase heq).trans hphase)
      case raise c x t => exact hbit

/-- DEND closes the session and drops the candidate (R215). -/
theorem sessionInv_dendEffect (s : State) (h : SessionInv s) (hphase : s.phase = .decode) :
    (dendEffect s).Leaves SessionInv := by
  simp only [dendEffect]
  split
  · exact fun w => sessionInv_errorEntry _ _ w s h.bits_bounded
  · exact .of_not_decode (by simp) rfl (fun _ => rfl) (fun _ => h.pending_in_pack (by simp [hphase])) h.accv_fits h.bits_bounded

/-- Every part of a step keeps the session invariants (R62). -/
theorem sessionInv_keptByParts : KeptByParts SessionInv where
  surroundings _ _ h := { h with }
  transaction tx s h := by
    rcases access_config tx s with ⟨hct, hdec⟩ | ⟨-, hidle⟩ <;> rw [access_frame]
    · rw [hct, hdec]
      exact { h with }
    · exact h.congr_in_idle hidle hidle rfl rfl
  reset s _ := sessionInv_resetBlock s
  completion _ _ h := { h with }
  error c x w s h := sessionInv_errorEntry c x w s h.bits_bounded
  command i s h hruns := by
    obtain ⟨hallow, hready⟩ := hruns
    cases i <;> simp only [Instr.mnemonic, allowed, runsInError, beq_iff_eq, reduceCtorEq, false_or] at hallow hready
    case nop => exact h
    case srst => exact sessionInv_resetBlock s
    case errclr => exact { h with error_is_idle := by simp [ErrLatch.clear] }
    case fclr | ctclr => exact h.congr_in_idle hallow hallow rfl rfl
    case fadd sym =>
      refine SessionInv.leaves ?_
      simp only [effectOf]
      rw [faddEffect_frame]
      exact h.congr_in_idle hallow hallow rfl rfl
    case build =>
      refine SessionInv.leaves ?_
      simp only [effectOf]
      rw [buildEffect_frame]
      exact h.congr_in_idle hallow hallow rfl rfl
    case pkstart => exact sessionInv_pkstartEffect s h hallow hready.1
    case pkb sym => exact sessionInv_pkbEffect sym s h hallow hready.1
    case pkend => exact sessionInv_pkendEffect s h hallow
    case darm => exact sessionInv_darmEffect s h hallow hready.1
    case din b => exact sessionInv_feedBits (bitsOfByte b) s h hallow
    case dend => exact sessionInv_dendEffect s h hallow

/-- Settles O58, from the parts of a step: each session command keeps the registers of its session, every other command runs
in IDLE or leaves the sessions alone, an error or a reset closes them, and the host's writes reach the table and DCNT in IDLE
only. -/
theorem stepKeepsSessions : Obligations.StepKeepsSessions := by
  unfold Obligations.StepKeepsSessions
  intro s t h hstep
  exact sessionInv_keptByParts.keeps_step h hstep

end Sys2Proof.Machine
end

section
/-! PROOFS. The register map, the registers that answer at any time, the node window and the reset state (10_state R23 to R61). -/

namespace Sys2Proof.Machine

/-! ### The register map -/

/-- CT_CODEk stands at 0x0A0 + 4k (R23). -/
theorem regOffset_ctCode (k : BitVec 3) : (regOffset (.ctCode k)).toNat = 0x0A0 + 4 * k.toNat := by
  have := k.isLt
  simp only [regOffset, BitVec.toNat_add, BitVec.toNat_shiftLeft, BitVec.zeroExtend, BitVec.toNat_setWidth, BitVec.toNat_ofNat,
    Nat.shiftLeft_eq]
  omega

/-- FREQ[s] stands at 0x400 + 4s (R23). -/
theorem regOffset_freq (sym : Byte) : (regOffset (.freq sym)).toNat = 0x400 + 4 * sym.toNat := by
  have := sym.isLt
  simp only [regOffset, BitVec.toNat_add, BitVec.toNat_shiftLeft, BitVec.zeroExtend, BitVec.toNat_setWidth, BitVec.toNat_ofNat,
    Nat.shiftLeft_eq]
  omega

/-- A register is found at its own offset (R23). -/
@[simp] theorem regAt_regOffset (r : Reg) : regAt (regOffset r) = some r := by
  cases r with
  | ctCode k =>
    have := k.isLt
    simp only [regAt, regOffset_ctCode]
    rw [if_neg (by simp; omega), if_pos (by simp; omega), Nat.add_sub_cancel_left, Nat.mul_div_cancel_left _ (by decide),
      BitVec.ofNat_toNat, BitVec.setWidth_eq]
  | freq sym =>
    have := sym.isLt
    simp only [regAt, regOffset_freq]
    rw [if_pos (by simp; omega), Nat.add_sub_cancel_left, Nat.mul_div_cancel_left _ (by decide),
      BitVec.ofNat_toNat, BitVec.setWidth_eq]
  | _ => rfl

/-- Every register is word-aligned (R23). -/
theorem regOffset_aligned (r : Reg) : (regOffset r).toNat % 4 = 0 := by
  cases r with
  | ctCode k => rw [regOffset_ctCode]; omega
  | freq sym => rw [regOffset_freq]; omega
  | _ => rfl

/-- No two registers share an offset (R23). -/
theorem regOffset_injective : Function.Injective regOffset := fun r r' h =>
  Option.some.inj ((regAt_regOffset r).symm.trans ((congrArg regAt h).trans (regAt_regOffset r')))

/-- Settles O40: the offsets are R23's, and finding a register at its offset makes them distinct. -/
theorem registerMap : Obligations.RegisterMap := by
  unfold Obligations.RegisterMap
  refine ⟨by decide, regOffset_ctCode, regOffset_freq, fun r => ⟨regAt_regOffset r, regOffset_aligned r, fun r' h => ?_⟩⟩
  exact regOffset_injective h

/-! ### Transactions at a register's offset -/

/-- The alignment bits of a register's offset are 0 (R23, R82). -/
@[simp] theorem regOffset_low (r : Reg) : (regOffset r).extractLsb' 0 2 = 0#2 := by
  apply BitVec.eq_of_toNat_eq
  simpa using regOffset_aligned r

/-- A full-word read at a register's offset reads the register (R82). -/
theorem access_read_reg (r : Reg) (s : State) : access (.read (regOffset r) false) s = readReg r s := by
  simp [access]

/-- A full-word write at a register's offset writes the register (R82). -/
theorem access_write_reg (r : Reg) (v : Word) (s : State) : access (.write (regOffset r) v 0b1111#4) s = writeReg r v s := by
  simp [access]

/-- A read of a register other than DATA_OUT that no BUSY makes free answers its value and changes nothing (R85, R87). -/
theorem access_read_value (r : Reg) (s : State) (hr : r ≠ .dataOut) (hfree : engineOwned r = false ∨ s.slot = none) :
    access (.read (regOffset r) false) s = (.read (regValue s r) false, s) := by
  rw [access_read_reg]
  rcases readReg_cases r s with ⟨hown, hbusy, -⟩ | ⟨-, hout, -⟩ | ⟨-, -, h⟩
  · rcases hfree with h | h <;> simp_all [busy]
  · exact absurd hout hr
  · exact h

/-- A write of a register that is neither CMD nor a configuration register stores its field at any time (R84). -/
theorem access_write_plain (r : Reg) (v : Word) (s : State) (hcmd : r ≠ .cmd) (hconf : isConfigReg r = false) :
    access (.write (regOffset r) v 0b1111#4) s = (.write false, storePlain r v s) := by
  simp [access_write_reg, writeReg, hcmd, hconf]

/-- Settles O44: the four registers are plain ones, and each stores its own field. -/
theorem selectorAndInterruptWrites : Obligations.SelectorAndInterruptWrites := by
  unfold Obligations.SelectorAndInterruptWrites
  intro s v
  refine ⟨access_write_plain .inten v s (by decide) rfl, ?_, access_write_plain .ctSel v s (by decide) rfl,
    access_write_plain .nodeSel v s (by decide) rfl⟩
  rw [← storePlain_intpend]
  exact access_write_plain .intpend v s (by decide) rfl

/-- VALID stands at bit 8, above the byte (R34). -/
theorem validByte_eq (b : Byte) : (0#23 ++ 1#1 ++ b : Word) = BitVec.ofNat 32 (0x100 + b.toNat) := by
  apply BitVec.eq_of_toNat_eq
  have := b.isLt
  rw [BitVec.toNat_append, ← Nat.shiftLeft_add_eq_or_of_lt b.isLt, BitVec.toNat_ofNat, Nat.mod_eq_of_lt (by omega)]
  rfl

/-- Settles O45: DATA_OUT is host-owned, so every read pops, and its write is a plain one that stores nothing. -/
theorem dataOutPops : Obligations.DataOutPops := by
  unfold Obligations.DataOutPops
  intro s
  have hread : access (.read 0x024#12 false) s = (.read (dataOutWord s) false, popOut s) := access_read_reg .dataOut s
  refine ⟨fun hnil => ?_, fun b rest hcons => ?_, fun v => access_write_plain .dataOut v s (by decide) rfl⟩
  · have hpop : popOut s = s := by rw [popOut, hnil, List.tail_nil, ← hnil]
    rw [hread, hpop, dataOutWord, hnil]
  · rw [hread, dataOutWord, popOut, hcons, ← validByte_eq, List.tail_cons]

/-! ### The fields of STATUS, NODE_INFO and the reset state -/

/-- The one-bit fields of STATUS (R26). -/
theorem status_bits (s : State) :
    (status s).getLsbD 0 = busy s ∧ (status s).getLsbD 1 = s.latch.err ∧ (status s).getLsbD 4 = ddone s ∧
      (status s).getLsbD 5 = held s ∧ (status s).getLsbD 6 = outAvail s ∧ (status s).getLsbD 7 = outFull s ∧
      (status s).getLsbD 8 = s.berr := by
  simp only [status, BitVec.getLsbD_append]
  simp

/-- PHASE in STATUS[3:2] (R26, R27). -/
theorem status_phase (s : State) : (status s).extractLsb' 2 2 = phaseBits s.phase := by
  unfold status
  simp (disch := decide) only [BitVec.extractLsb'_append_eq_of_le]
  exact BitVec.extractLsb'_append_eq_right

/-- STATUS above BERR is 0 (R26). -/
theorem status_reserved (s : State) : (status s).extractLsb' 9 23 = 0#23 := by
  unfold status
  simp (disch := decide) only [BitVec.extractLsb'_append_eq_of_le]
  rfl

/-- HELD as R26 words it: a command in SLOT, no error, and less room than the command needs. -/
theorem held_iff (s : State) :
    held s = true ↔
      ∃ w, s.slot = some w ∧ s.latch.err = false ∧ s.cfg.outqDepth < s.outq.length + need (wordOp w) := by
  cases hs : s.slot with
  | none => simp [held, hs]
  | some w => simp [held, hs, hasRoom, outCount, Nat.add_comm]

/-- Settles O48: STATUS is host-owned, so its read is free of BUSY, and each field is the bits R26 places it in. -/
theorem statusFields : Obligations.StatusFields := by
  unfold Obligations.StatusFields
  intro s
  obtain ⟨hbusy, herr, hddone, hheld, havail, hfull, hberr⟩ := status_bits s
  rw [hbusy, hddone, hheld, havail, hfull]
  refine ⟨access_read_value .status s (by decide) (.inl rfl), ?_, herr, ?_, ?_, held_iff s, ?_, ?_, hberr, status_reserved s⟩
  · simp [busy, Option.isSome_iff_ne_none]
  · rw [status_phase]
    cases s.phase <;> rfl
  · simp [ddone]
  · exact decide_eq_true_iff
  · simp [outFull, outCount]

/-- The fields of a NODE_INFO word (R47). -/
theorem nodeInfo_fields (leaf : Bool) (right left : NodeIdx) (sym : Byte) :
    let info : Word := 1#1 ++ BitVec.ofBool leaf ++ 0#4 ++ right ++ left ++ sym
    info.getLsbD 31 = true ∧ info.getLsbD 30 = leaf ∧ info.extractLsb' 26 4 = 0#4 ∧ info.extractLsb' 17 9 = right ∧
      info.extractLsb' 8 9 = left ∧ info.extractLsb' 0 8 = sym := by
  simp (disch := decide) only [BitVec.getLsbD_append, BitVec.extractLsb'_append_eq_of_le]
  refine ⟨by simp, by simp, ?_, ?_, ?_, ?_⟩ <;> exact BitVec.extractLsb'_append_eq_right

/-- Settles O50: with BUSY = 0 both reads answer their registers, whose words split at NODECNT. -/
theorem nodeWindow : Obligations.NodeWindow := by
  unfold Obligations.NodeWindow
  intro s hs
  refine ⟨nodeWWord s, nodeInfoWord s, access_read_value .nodeW s (by decide) (.inr hs),
    access_read_value .nodeInfo s (by decide) (.inr hs), fun hlt => ?_, fun hge => ?_⟩
  · rw [nodeWWord, nodeInfoWord, if_pos hlt, if_pos hlt]
    exact ⟨rfl, nodeInfo_fields _ _ _ _⟩
  · rw [nodeWWord, nodeInfoWord, if_neg (Nat.not_lt.mpr hge), if_neg (Nat.not_lt.mpr hge)]
    exact ⟨rfl, rfl⟩

/-- The cleared table has no symbol with a code, so NSYM is 0 (R39, R172). -/
@[simp] theorem present_emptyTable : present emptyTable = [] := by
  refine List.eq_nil_iff_forall_not_mem.mpr fun ⟨sym, code⟩ hmem => ?_
  obtain ⟨hcode, -⟩ := (mem_present emptyTable sym code).mp hmem
  simp [HasCode, CtEntry.empty] at hcode

/-- MAXLEN of the cleared table is 0 (R40, R172). -/
@[simp] theorem longestCode_emptyTable : longestCode emptyTable = 0 := by
  refine Nat.le_zero.mp ((longestCode_le_iff _ _).mpr fun e he => ?_)
  rw [emptyTable, Vector.toList_replicate] at he
  rw [List.eq_of_mem_replicate he]
  rfl

/-- Settles O13: the fields of the reset state, entry by entry for the two tables; NSYM and MAXLEN of the cleared table are 0. -/
theorem resetValues : Obligations.ResetValues := by
  unfold Obligations.ResetValues
  have hfreq (sym : Byte) : freqAt State.reset sym = 0#32 := by simp [freqAt, State.reset]
  have hct (sym : Byte) : ctAt State.reset.ct sym = CtEntry.empty := ctAt_emptyTable sym
  have hnsym : regValue State.reset .nsym = 0#32 := congrArg (fun cs => BitVec.ofNat 32 (List.length cs)) present_emptyTable
  have hmaxlen : regValue State.reset .maxlen = 0#32 := congrArg (BitVec.ofNat 32) longestCode_emptyTable
  refine ⟨rfl, rfl, rfl, rfl, rfl, rfl, rfl, rfl, rfl, rfl, hfreq, rfl, rfl, rfl, fun sym => ?_, rfl, rfl, rfl, rfl, rfl, rfl,
    rfl, rfl, rfl, rfl, hnsym, hmaxlen, by decide, rfl⟩
  rw [hct]
  exact ⟨rfl, rfl⟩

/-- Settles O54: every invariant group holds of the zeros of R61. -/
theorem resetMeetsInvariants : Obligations.ResetMeetsInvariants where
  total := totalInv_of_zero _ rfl rfl
  outq := by
    unfold OutqInv
    decide
  nodes := .inl rfl
  session := .of_not_decode (by decide) rfl (fun _ => rfl) (fun _ => rfl) (by decide) (by decide)

end Sys2Proof.Machine
end

section
/-! PROOFS. Host transactions on the register window: the refused and the silent ones, configuration writes, what reads return,
and the frame of every transaction (20_memory R82 to R94). -/

namespace Sys2Proof.Machine

/-! ### Transactions that are refused or silent -/

/-- An offset is word-aligned exactly when its alignment bits are 0 (R82). -/
theorem low_eq_zero_iff (addr : BitVec 12) : addr.extractLsb' 0 2 = 0#2 ↔ addr.toNat % 4 = 0 := by
  rw [← BitVec.toNat_inj]
  simp

/-- Settles O39: each refused form of a transaction takes the first branch of its access. -/
theorem narrowOrMisalignedIsBusError : Obligations.NarrowOrMisalignedIsBusError := by
  unfold Obligations.NarrowOrMisalignedIsBusError
  intro s addr
  refine ⟨fun narrow h => ?_, fun v strb h => ?_⟩
  · have hrefused : (narrow || addr.extractLsb' 0 2 != 0#2) = true := by simpa [low_eq_zero_iff] using h.symm
    rw [access, if_pos hrefused]
    rfl
  · have hrefused : (addr.extractLsb' 0 2 != 0#2 || strb != 0b1111#4) = true := by simpa [low_eq_zero_iff] using h
    rw [access, if_pos hrefused]
    rfl

/-- The register found at an aligned offset stands at it; only the two arrays, which are engine-owned, are also found at an offset
inside a word (R22, R23). -/
theorem regOffset_of_regAt {addr : BitVec 12} {r : Reg} (h : regAt addr = some r)
    (hr : addr.toNat % 4 = 0 ∨ engineOwned r = false) : regOffset r = addr := by
  simp only [regAt, Bool.and_eq_true, decide_eq_true_eq] at h
  split at h
  · cases h
    have haligned := hr.resolve_right (by simp [engineOwned])
    apply BitVec.eq_of_toNat_eq
    rw [regOffset_freq, BitVec.toNat_ofNat]
    omega
  · split at h
    · cases h
      have haligned := hr.resolve_right (by simp [engineOwned])
      apply BitVec.eq_of_toNat_eq
      rw [regOffset_ctCode, BitVec.toNat_ofNat]
      omega
    · simpa using List.find?_some h

/-- An aligned offset at which no register stands is reserved (R23, R84). -/
theorem regAt_eq_none {addr : BitVec 12} (haligned : addr.toNat % 4 = 0) (h : ∀ r, regOffset r ≠ addr) : regAt addr = none :=
  Option.eq_none_iff_forall_ne_some.mpr fun r hr => h r (regOffset_of_regAt hr (.inl haligned))

/-- Of the registers that are neither CMD nor configuration, a write stores something in four (R84). -/
theorem storePlain_eq_self (r : Reg) (v : Word) (s : State) (h : r ∉ [.inten, .intpend, .ctSel, .nodeSel]) :
    storePlain r v s = s := by
  unfold storePlain
  split
  case h_5 => rfl
  all_goals simp at h

/-- Settles O41: a reserved offset finds no register, and the plain write of a read-only register stores nothing. -/
theorem silentAccesses : Obligations.SilentAccesses := by
  unfold Obligations.SilentAccesses
  refine ⟨fun s addr v haligned h => ?_, fun s r v hr => ?_, fun s => access_read_value .cmd s (by decide) (.inl rfl)⟩
  · have hlow := (low_eq_zero_iff addr).mpr haligned
    have hnone := regAt_eq_none haligned h
    exact ⟨by simp [access, hlow, hnone], by simp [access, hlow, hnone]⟩
  · have hsilent : r ≠ .cmd ∧ isConfigReg r = false ∧ r ∉ [.inten, .intpend, .ctSel, .nodeSel] := by
      rcases hr with hr | ⟨sym, rfl⟩
      · revert r
        decide
      · exact ⟨by simp, rfl, by simp⟩
    obtain ⟨hcmd, hconf, hstored⟩ := hsilent
    rw [access_write_plain r v s hcmd hconf, storePlain_eq_self r v s hstored]

/-- BUSY is 1 exactly while a word is in SLOT (R26, R59). -/
theorem busy_iff (s : State) : busy s = true ↔ s.slot ≠ none := Option.isSome_iff_ne_none

/-- Settles O46: the registers of the list are the engine-owned ones, whose read takes the free branch. -/
theorem busyEngineReadIsFree : Obligations.BusyEngineReadIsFree := by
  unfold Obligations.BusyEngineReadIsFree
  intro s r hs hr
  have hown : engineOwned r = true := by
    rcases hr with hr | ⟨sym, rfl⟩ | ⟨k, rfl⟩
    · revert r
      decide
    · rfl
    · rfl
  simp [access_read_reg, readReg, hown, (busy_iff s).mpr hs]

/-! ### Configuration writes -/

/-- CMD is no configuration register (R22, R88). -/
theorem ne_cmd_of_isConfigReg {r : Reg} (h : isConfigReg r = true) : r ≠ .cmd := by
  rintro rfl
  cases h

/-- A configuration write with BUSY = 1 or PHASE ≠ IDLE is a BusError (R88). -/
theorem access_write_config_refused (r : Reg) (v : Word) (s : State) (hconf : isConfigReg r = true)
    (h : s.slot ≠ none ∨ s.phase ≠ .idle) :
    access (.write (regOffset r) v 0b1111#4) s = (.write true, busErrorState s) := by
  have hlocked : (busy s || s.phase != .idle) = true := by simpa [busy_iff] using h
  rw [access_write_reg, writeReg, if_neg (ne_cmd_of_isConfigReg hconf), if_pos hconf, if_pos hlocked, writeError]

/-- A configuration write with BUSY = 0 in IDLE is stored (R88). -/
theorem access_write_config_stored (r : Reg) (v : Word) (s : State) (hconf : isConfigReg r = true) (hs : s.slot = none)
    (hp : s.phase = .idle) : access (.write (regOffset r) v 0b1111#4) s = (.write false, storeConfig r v s) := by
  rw [access_write_reg, writeReg, if_neg (ne_cmd_of_isConfigReg hconf), if_pos hconf, if_neg (by simp [busy, hs, hp])]

/-- The mask of a 32-bit slice at position 0. -/
theorem sliceMask_getLsbD (n : Nat) : (0xFFFFFFFF#256).getLsbD n = decide (n < 32) := by
  have hones : 0xFFFFFFFF#256 = (BitVec.allOnes 32).setWidth 256 := by decide
  have hlt : n < 32 → n < 256 := by omega
  rw [hones, BitVec.getLsbD_setWidth, BitVec.getLsbD_allOnes]
  simpa using hlt

/-- Bit by bit, a write of CT_CODEk takes bits 32k to 32k + 31 from the word and keeps the others (R51). -/
theorem withCodeWord_getLsbD (e : CtEntry) (k : BitVec 3) (v : Word) (n : Nat) (hn : n < 256) :
    (withCodeWord e k v).code.getLsbD n = if n / 32 = k.toNat then v.getLsbD (n % 32) else e.code.getLsbD n := by
  have hv : n - 32 * k.toNat < 256 := by omega
  simp only [withCodeWord, BitVec.getLsbD_or, BitVec.getLsbD_and, BitVec.getLsbD_not, BitVec.getLsbD_shiftLeft,
    sliceMask_getLsbD, BitVec.getLsbD_setWidth, hn, hv, decide_true, Bool.true_and]
  rcases Nat.lt_trichotomy (n / 32) k.toNat with hlt | heq | hgt
  · have hbelow : n < 32 * k.toNat := by omega
    rw [if_neg (by omega)]
    simp [hbelow]
  · have hfrom : ¬ n < 32 * k.toNat := by omega
    have hin : n - 32 * k.toNat < 32 := by omega
    rw [if_pos heq, show n % 32 = n - 32 * k.toNat by omega]
    simp [hfrom, hin]
  · have habove : ¬ n - 32 * k.toNat < 32 := by omega
    rw [if_neg (by omega), BitVec.getLsbD_of_ge v _ (by omega)]
    simp [habove]

/-- Of the eight slices of a code, a write of CT_CODEk replaces slice k (R51). -/
theorem withCodeWord_slice (e : CtEntry) (k j : BitVec 3) (v : Word) :
    (withCodeWord e k v).code.extractLsb' (32 * j.toNat) 32 = if j = k then v else e.code.extractLsb' (32 * j.toNat) 32 := by
  have hj := j.isLt
  ext i hi
  rw [BitVec.getElem_extractLsb', withCodeWord_getLsbD e k v _ (by omega), show (32 * j.toNat + i) / 32 = j.toNat by omega,
    show (32 * j.toNat + i) % 32 = i by omega]
  simp only [BitVec.toNat_inj]
  split
  · exact BitVec.getLsbD_eq_getElem hi
  · exact (BitVec.getElem_extractLsb' hi).symm

/-- Settles O43: the three registers are configuration registers; each stores its own field of DCNT or of the selected entry. -/
theorem configWrites : Obligations.ConfigWrites := by
  unfold Obligations.ConfigWrites
  intro s v k
  refine ⟨fun h addr haddr => ?_, fun hs hp => ⟨access_write_config_stored .dcnt v s rfl hs hp,
    ⟨_, access_write_config_stored .ctLen v s rfl hs hp, rfl, ctAt_ctSet_same .., fun u hu => ctAt_ctSet_ne _ _ u _ hu⟩,
    ⟨_, access_write_config_stored (.ctCode k) v s rfl hs hp, rfl, ?_, fun j => ?_, fun u hu => ctAt_ctSet_ne _ _ u _ hu⟩⟩⟩
  · simp only [List.mem_cons, List.not_mem_nil, or_false] at haddr
    rcases haddr with rfl | rfl | rfl <;> exact access_write_config_refused _ v s rfl h
  · rw [storeConfig, ctAt_ctSet_same]
    rfl
  · rw [storeConfig, ctAt_ctSet_same, withCodeWord_slice]

/-! ### What reads return -/

/-- The table's entries stand beside their symbols (R48). -/
theorem symbols_zip (ct : CodeTable) : allSymbols.zip ct.toList = allSymbols.map fun sym => (sym, ctAt ct sym) := by
  refine List.ext_getElem (by simp) fun i hi hi' => ?_
  have hlt : i < 256 := by simpa using hi
  simp [allSymbols_getElem, ctAt, Nat.mod_eq_of_lt hlt]

/-- NSYM counts the symbols whose entry has a length (R39). -/
theorem symbolCount_eq (ct : CodeTable) :
    symbolCount ct = (allSymbols.filter fun sym => (ctAt ct sym).len ≠ 0#8).length := by
  rw [symbolCount, present, symbols_zip, List.filterMap_map, ← List.countP_eq_length_filter, List.length_filterMap_eq_countP]
  refine List.countP_congr fun sym _ => ?_
  by_cases hlen : (ctAt ct sym).len = 0#8 <;> simp [hlen]

/-- The value of NSYM, which fits its register (R39). -/
theorem nsym_toNat (s : State) :
    (regValue s .nsym).toNat = (allSymbols.filter fun sym => (ctAt s.ct sym).len ≠ 0#8).length := by
  have hle := List.length_filter_le (fun sym => decide ((ctAt s.ct sym).len ≠ 0#8)) allSymbols
  rw [allSymbols_length] at hle
  rw [regValue, symbolCount_eq, BitVec.toNat_ofNat, Nat.mod_eq_of_lt (by omega)]

/-- The value of MAXLEN, a byte as every length is (R40, R48). -/
theorem maxlen_toNat (s : State) : (regValue s .maxlen).toNat = longestCode s.ct := by
  have hle : longestCode s.ct ≤ 255 := (longestCode_le_iff s.ct 255).mpr fun e _ => Nat.le_of_lt_succ e.len.isLt
  rw [regValue, BitVec.toNat_ofNat, Nat.mod_eq_of_lt (by omega)]

/-- Every entry of the table is some symbol's (R48). -/
theorem exists_ctAt_eq {ct : CodeTable} {e : CtEntry} (he : e ∈ ct.toList) : ∃ sym, ctAt ct sym = e := by
  obtain ⟨i, hi, rfl⟩ := List.getElem_of_mem he
  have hlt : i < 256 := by simpa using hi
  exact ⟨BitVec.ofNat 8 i, by simp [ctAt, Nat.mod_eq_of_lt hlt]⟩

/-- Some entry is MAXLEN long: the bound would not be the least one otherwise (R40). -/
theorem exists_len_eq_longestCode (ct : CodeTable) : ∃ sym, (ctAt ct sym).len.toNat = longestCode ct := by
  by_contra hnone
  have hbelow (sym : Byte) : (ctAt ct sym).len.toNat < longestCode ct :=
    lt_of_le_of_ne (len_le_longestCode ct sym) fun h => hnone ⟨sym, h⟩
  have hpos := hbelow 0#8
  have hless : longestCode ct ≤ longestCode ct - 1 := (longestCode_le_iff ct _).mpr fun e he => by
    obtain ⟨sym, rfl⟩ := exists_ctAt_eq he
    exact Nat.le_sub_one_of_lt (hbelow sym)
  omega

/-- The fields of PARAM (R25). -/
theorem paramWord_fields (c : Config) :
    (paramWord c).extractLsb' 24 8 = 0x20#8 ∧ (paramWord c).extractLsb' 16 8 = 0xFF#8 ∧
      (paramWord c).extractLsb' 0 16 = BitVec.ofNat 16 c.outqDepth := by
  unfold paramWord
  simp (disch := decide) only [BitVec.extractLsb'_append_eq_of_le]
  exact ⟨rfl, rfl, BitVec.extractLsb'_append_eq_right⟩

/-- The fields of INTPEND (R33). -/
theorem intPend_fields (s : State) :
    (intPend s).getLsbD 0 = s.cmdDone ∧ (intPend s).getLsbD 1 = s.latch.err ∧ (intPend s).getLsbD 2 = outAvail s ∧
      (intPend s).extractLsb' 3 29 = 0#29 := by
  unfold intPend
  simp (disch := decide) only [BitVec.getLsbD_append, BitVec.extractLsb'_append_eq_of_le]
  simp

/-- The fields of PKACC (R52). -/
theorem pkaccWord_fields (p : Packer) :
    (pkaccWord p).extractLsb' 0 3 = p.accn ∧ (pkaccWord p).extractLsb' 3 5 = 0#5 ∧ (pkaccWord p).extractLsb' 8 7 = p.accv ∧
      (pkaccWord p).extractLsb' 15 17 = 0#17 := by
  unfold pkaccWord
  simp (disch := decide) only [BitVec.extractLsb'_append_eq_of_le]
  exact ⟨BitVec.extractLsb'_append_eq_right, BitVec.extractLsb'_append_eq_right, BitVec.extractLsb'_append_eq_right, rfl⟩

/-- PKBITS is read in two halves (R54). -/
theorem pkbits_halves (x : BitVec 64) : x.toNat = (x.extractLsb' 32 32).toNat * 2 ^ 32 + (x.extractLsb' 0 32).toNat := by
  simp only [BitVec.extractLsb'_toNat, Nat.shiftRight_eq_div_pow]
  omega

/-- OUTCNT fits its register in every configuration the spec allows (R6, R35). -/
theorem outcnt_toNat (s : State) (h : s.outq.length ≤ 65535) : (regValue s .outcnt).toNat = s.outq.length := by
  have hlt : s.outq.length < 2 ^ 16 := by omega
  rw [regValue, outCount, BitVec.toNat_append]
  simpa using hlt

/-- Settles O47: a read that no BUSY makes free answers the register's value, and each value is its field. -/
theorem readsReturnRegisters : Obligations.ReadsReturnRegisters := by
  unfold Obligations.ReadsReturnRegisters
  intro s
  have hhost : ∀ r ∈ [Reg.id, .param, .status, .cmd, .errcode, .errinfo, .errcmd, .inten, .intpend, .outcnt, .ctSel,
      .nodeSel], engineOwned r = false := by decide
  obtain ⟨hwbits, hmaxlen, hdepth⟩ := paramWord_fields s.cfg
  obtain ⟨hdone, herr, havail, hreserved⟩ := intPend_fields s
  have hparam (h : s.cfg.outqDepth ≤ 65535) : ((regValue s .param).extractLsb' 0 16).toNat = s.cfg.outqDepth := by
    rw [regValue, hdepth, BitVec.toNat_ofNat, Nat.mod_eq_of_lt (by omega)]
  have houtAvail : (intPend s).getLsbD 2 = true ↔ s.outq ≠ [] := by
    rw [havail, outAvail, outCount, decide_eq_true_iff, List.length_pos_iff]
  have hbound (sym : Byte) : (ctAt s.ct sym).len.toNat ≤ (regValue s .maxlen).toNat := by
    rw [maxlen_toNat]
    exact len_le_longestCode s.ct sym
  have hattained : ∃ sym, (ctAt s.ct sym).len.toNat = (regValue s .maxlen).toNat := by
    rw [maxlen_toNat]
    exact exists_len_eq_longestCode s.ct
  have hdcand (h : s.dec.cand.length ≤ 255) : (regValue s .dcand).toNat = s.dec.cand.length := Nat.mod_eq_of_lt (by omega)
  have hzext {n : Nat} (x : BitVec n) (hn : n ≤ 32) : (x.zeroExtend 32).toNat = x.toNat := BitVec.toNat_setWidth_of_le hn
  exact ⟨fun r hr hfree => access_read_value r s hr (hfree.imp_left (hhost r)), rfl, ⟨hwbits, hmaxlen, hparam⟩,
    hzext _ (by decide), rfl, rfl, hzext _ (by decide), ⟨hdone, herr, houtAvail, hreserved⟩, outcnt_toNat s,
    hzext _ (by decide), hzext _ (by decide), fun _ => rfl, rfl, hzext _ (by decide), hzext _ (by decide), nsym_toNat s,
    ⟨hbound, hattained⟩, hzext _ (by decide), fun _ => rfl, pkaccWord_fields s.pk, rfl, pkbits_halves s.pk.bits,
    hzext _ (by decide), rfl, rfl, hdcand⟩

/-! ### The frame of a transaction -/

/-- A read takes the head of OUTQ only at DATA_OUT (R34, R85). -/
theorem access_outq_dataOut (tx : BusTx) (s : State) :
    (access tx s).2.outq = s.outq ∨ (tx = .read (regOffset .dataOut) false ∧ (access tx s).2.outq = s.outq.tail) := by
  rcases access_cases tx s with h | h | ⟨addr, r, htx, hreg, h⟩ | ⟨_, r, v, -, -, h⟩
  · exact .inl (by rw [h]; rfl)
  · exact .inl (by rw [h])
  · rcases readReg_cases r s with ⟨-, -, hread⟩ | ⟨-, hout, hread⟩ | ⟨-, -, hread⟩ <;> rw [h, hread]
    · exact .inl rfl
    · subst hout
      rw [regOffset_of_regAt hreg (.inr rfl)]
      exact .inr ⟨htx, rfl⟩
    · exact .inl rfl
  · exact .inl (by rw [h, writeReg_frame])

@[simp] theorem storeConfig_slot (r : Reg) (v : Word) (s : State) : (storeConfig r v s).slot = s.slot := by
  rw [storeConfig_frame]

@[simp] theorem storeConfig_berr (r : Reg) (v : Word) (s : State) : (storeConfig r v s).berr = s.berr := by
  rw [storeConfig_frame]

@[simp] theorem storePlain_slot (r : Reg) (v : Word) (s : State) : (storePlain r v s).slot = s.slot := by
  rw [storePlain_frame]

@[simp] theorem storePlain_berr (r : Reg) (v : Word) (s : State) : (storePlain r v s).berr = s.berr := by
  rw [storePlain_frame]

/-- SLOT fills only through a write of CMD to an empty SLOT, with the word written (R59, R120). -/
theorem access_slot (tx : BusTx) (s : State) :
    (access tx s).2.slot = s.slot ∨
      ∃ w, tx = .write (regOffset .cmd) w 0b1111#4 ∧ s.slot = none ∧ (access tx s).2.slot = some w := by
  rcases access_cases tx s with h | h | ⟨_, r, -, -, h⟩ | ⟨addr, r, v, htx, hreg, h⟩
  · exact .inl (by rw [h]; rfl)
  · exact .inl (by rw [h])
  · exact .inl (by rw [h, readReg_frame])
  · rcases writeReg_cases r v s with ⟨hcmd, hs, hwrite⟩ | hwrite | ⟨-, -, -, hwrite⟩ | ⟨-, -, hwrite⟩ <;> rw [h, hwrite]
    · subst hcmd
      rw [regOffset_of_regAt hreg (.inr rfl)]
      exact .inr ⟨v, htx, hs, rfl⟩
    · exact .inl rfl
    · exact .inl (storeConfig_slot r v s)
    · exact .inl (storePlain_slot r v s)

/-- No transaction clears BERR (R86). -/
theorem access_berr (tx : BusTx) (s : State) (hb : s.berr = true) : (access tx s).2.berr = true := by
  rcases access_cases tx s with h | h | ⟨_, r, -, -, h⟩ | ⟨_, r, v, -, -, h⟩ <;> rw [h]
  · rfl
  · exact hb
  · rwa [readReg_frame]
  · rcases writeReg_cases r v s with ⟨-, -, hwrite⟩ | hwrite | ⟨-, -, -, hwrite⟩ | ⟨-, -, hwrite⟩ <;> rw [hwrite]
    · exact hb
    · rfl
    · exact (storeConfig_berr r v s).trans hb
    · exact (storePlain_berr r v s).trans hb

/-- Settles O51: the frame of a transaction, and the four fields it may change under a condition. -/
theorem hostTransactionFrame : Obligations.HostTransactionFrame := by
  unfold Obligations.HostTransactionFrame
  intro tx s
  have hconfig : ((access tx s).2.ct = s.ct ∧ (access tx s).2.dec.dcnt = s.dec.dcnt) ∨ (s.slot = none ∧ s.phase = .idle) :=
    (access_config tx s).imp_left fun ⟨hct, hdec⟩ => ⟨hct, congrArg Decoder.dcnt hdec⟩
  refine ⟨?_, ?_, ?_, ?_, ?_, ?_, ?_, ?_, ?_, ?_, access_outq_dataOut tx s, access_slot tx s, hconfig, access_berr tx s⟩ <;>
    rw [access_frame]

end Sys2Proof.Machine
end

section
/-! PROOFS. Named turns of the engine and the host, and when a command's effects appear (20_memory R90, 40_control R121 to
R124). -/

namespace Sys2Proof.Machine

/-! ### Named turns -/

/-- A turn of the engine (R7, log 1). -/
theorem step_engine_turn {s : State} {rest : List Turn} (h : s.env.turns = .engine :: rest) :
    step s = engineStep (usedTurn s rest) := by
  simp only [step, takeTurn, h, usedTurn]

/-- A turn of the host (R7, log 1). -/
theorem step_host_turn {s : State} {rest : List Turn} (h : s.env.turns = .host :: rest) :
    step s = .next (hostStep (usedTurn s rest)) := by
  simp only [step, takeTurn, h, usedTurn]

/-! ### The engine's turn -/

/-- The engine's step is enabled for a word in SLOT exactly when ERR = 1 or OUTQ has room for it (R121). -/
theorem engineReady_iff {s : State} {w : Word} (hs : s.slot = some w) :
    engineReady s = true ↔ s.latch.err = true ∨ s.outq.length + need (wordOp w) ≤ s.cfg.outqDepth := by
  simp [engineReady, hs, hasRoom, outCount, Nat.add_comm]

/-- Only the word 0x01000000 decodes to SRST (R103, R104). -/
theorem decode_eq_srst_iff (w : Word) : decode w = .ok .srst ↔ w = 0x01000000#32 := by
  constructor
  · intro h
    unfold decode at h
    split at h
    · rename_i r hf
      have hmnemonic : r.mnemonic = .srst := by
        have := congrArg Instr.mnemonic (Except.ok.inj h)
        rwa [instrOf_mnemonic] at this
      have hrow : ∀ r ∈ opcodeTable, r.mnemonic = .srst → r.pattern = 0x01000000#32 ∧ r.mask = BitVec.allOnes 32 := by
        decide
      obtain ⟨hpattern, hmask⟩ := hrow r (List.mem_of_find?_eq_some hf) hmnemonic
      have hmatch : w &&& r.mask = r.pattern := by simpa [rowMatches] using List.find?_some hf
      rwa [hpattern, hmask, BitVec.and_allOnes] at hmatch
    · cases h
  · rintro rfl
    decide

/-- SRST is the one command of its mnemonic. -/
theorem mnemonic_eq_srst_iff (i : Instr) : i.mnemonic = .srst ↔ i = .srst := by
  cases i <;> simp [Instr.mnemonic]

/-- SRST ends in the reset of the block whatever ERR and PHASE are (R127). -/
theorem exec_srst (s : State) : exec .srst s = .next (complete true (resetBlock s)) := by
  rw [exec_next]
  simp [execute, effectOf, Instr.mnemonic, runsInError, allowed]

/-- A word that the engine executes leaves SLOT, and sets CMDDONE unless it is SRST, whose reset clears it (R124, R127). -/
theorem engineStep_completes {s t : State} {w : Word} (hs : s.slot = some w) (hready : engineReady s = true)
    (hstep : engineStep s = .next t) : t.slot = none ∧ (t.cmdDone = true ↔ w ≠ 0x01000000#32) := by
  rcases engineStep_cases s with ⟨hnot, -⟩ | ⟨w', hs', -, ⟨i, hdec, heq⟩ | ⟨e, hdec, heq⟩⟩
  · simp [hready] at hnot
  all_goals
    obtain rfl : w = w' := Option.some.inj (hs.symm.trans hs')
    rw [heq] at hstep
    rw [ne_eq, ← decode_eq_srst_iff, hdec]
  · by_cases hi : i = .srst
    · subst hi
      rw [exec_srst] at hstep
      cases hstep
      exact ⟨rfl, by simp [resetBlock_eq]⟩
    · have hm : (i.mnemonic == .srst) = false := by simpa [mnemonic_eq_srst_iff] using hi
      rw [exec_next, hm] at hstep
      cases hstep
      exact ⟨rfl, by simp [hi]⟩
  · rw [runIllegal_next] at hstep
    cases hstep
    exact ⟨rfl, by simp⟩

/-- A command that is not enabled leaves the state (R122, log 2). -/
theorem engineStep_of_not_ready {s : State} (h : engineReady s = false) : engineStep s = .next s := by
  rcases engineStep_cases s with ⟨-, heq⟩ | ⟨_, -, hready, -⟩
  · exact heq
  · simp [h] at hready

/-! ### The host's turn -/

/-- All that may change in the block on a turn of the host while a command is in SLOT (R85, R90). -/
def KeepsCommand (s t : State) : Prop :=
  t = { s with
    berr := t.berr
    inten := t.inten
    cmdDone := t.cmdDone
    outq := t.outq
    ctSel := t.ctSel
    nodeSel := t.nodeSel
    env := t.env }

/-- The surroundings are no state of the block, before and after. -/
theorem KeepsCommand.change_env {s t : State} {e : Env} (h : KeepsCommand { s with env := e } t) (e' : Env) :
    KeepsCommand s { t with env := e' } := by
  unfold KeepsCommand at h ⊢
  exact congrArg (fun x : State => { x with env := e' }) h

/-- A transaction beside a command in SLOT leaves the command, the table and DCNT too (R87, R88, R120). -/
theorem access_keepsCommand (tx : BusTx) {s : State} (hs : s.slot ≠ none) : KeepsCommand s (access tx s).2 := by
  have hslot := (access_slot tx s).resolve_right fun ⟨_, _, hnone, _⟩ => hs hnone
  obtain ⟨hct, hdec⟩ := (access_config tx s).resolve_right fun ⟨hnone, _⟩ => hs hnone
  have hframe := access_frame tx s
  simp only [hslot, hct, hdec] at hframe
  exact hframe

/-- On its turn beside a command in SLOT the host leaves the command, and OUTQ loses at most its head (R34, R90). -/
theorem hostStep_keepsCommand {s : State} (hs : s.slot ≠ none) :
    KeepsCommand s (hostStep s) ∧ ((hostStep s).outq = s.outq ∨ (hostStep s).outq = s.outq.tail) := by
  obtain heq | ⟨tx, u, rfl | ⟨ops, rfl⟩, heq⟩ := hostStep_cases s <;> rw [heq]
  · exact ⟨rfl, .inl rfl⟩
  · exact ⟨(access_keepsCommand tx hs).change_env _, access_outq tx _⟩
  · exact ⟨(access_keepsCommand tx (s := setScript ops s) hs).change_env _, access_outq tx _⟩

/-- SLOT fills on the host's turn only when its next operation writes the word to CMD (R59, R90, R120). -/
theorem hostStep_fills_slot {s : State} (hs : s.slot = none) (ht : (hostStep s).slot ≠ none) :
    ∃ w ops, s.env.script = .bus (.write (regOffset .cmd) w 0b1111#4) :: ops ∧ (hostStep s).slot = some w := by
  have hread (addr : BitVec 12) : (access (.read addr false) s).2.slot = none := by
    rcases access_slot (.read addr false) s with h | ⟨_, htx, -⟩
    · rw [h, hs]
    · cases htx
  cases hscript : s.env.script with
  | nil => simp [hostStep, hscript, hs] at ht
  | cons op rest =>
    cases op
    case bus tx =>
      have hstep : hostStep s = transact tx (setScript rest s) := by simp only [hostStep, hscript]
      rw [hstep] at ht ⊢
      rcases access_slot tx (setScript rest s) with h | ⟨w, rfl, -, h⟩
      · exact absurd (h.trans hs) ht
      · exact ⟨w, rest, rfl, h⟩
    case readAsserting | wait | drain | take =>
      exact absurd (by simp [hostStep, hscript, readStatusTx, readDataOutTx, hread]) ht

/-- BUSY becomes 1 only in a step of the host whose next operation writes the word to CMD (R59, R90). -/
theorem step_fills_slot {s t : State} (hs : s.slot = none) (hstep : step s = .next t) (ht : t.slot ≠ none) :
    ∃ w ops, s.env.script = .bus (.write (regOffset .cmd) w 0b1111#4) :: ops ∧ t.slot = some w := by
  obtain ⟨u, hu, hcase⟩ := step_cases s
  have hsame : u.slot = none ∧ u.env.script = s.env.script := by
    rcases hu with rfl | ⟨rest, rfl⟩
    · exact ⟨hs, rfl⟩
    · exact ⟨hs, rfl⟩
  obtain ⟨hslot, hscript⟩ := hsame
  rcases hcase with heq | heq | heq <;> rw [heq] at hstep
  · rw [engineStep_of_not_ready (by simp [engineReady, hslot])] at hstep
    cases hstep
    exact absurd hslot ht
  · cases hstep
    rw [← hscript]
    exact hostStep_fills_slot hslot ht
  · cases hstep
    exact absurd rfl ht

/-- Settles O59: SLOT fills by `step_fills_slot`; on a named turn the engine completes, or waits, or the host moves beside the
command. -/
theorem effectsAppearAtCompletion : Obligations.EffectsAppearAtCompletion := by
  unfold Obligations.EffectsAppearAtCompletion
  refine ⟨fun s t => step_fills_slot, fun s t w rest hs hstep => ?_⟩
  have hslot : (usedTurn s rest).slot = some w := hs
  refine ⟨fun hturn => ?_, fun hturn => ?_⟩
  · rw [step_engine_turn hturn] at hstep
    refine ⟨fun hready => engineStep_completes hslot ((engineReady_iff hslot).mpr hready) hstep, fun herr hroom => ?_⟩
    have hwaits : engineReady (usedTurn s rest) = false := by
      rw [Bool.eq_false_iff, ne_eq, engineReady_iff hslot]
      exact not_or.mpr ⟨by simpa [usedTurn] using herr, Nat.not_le.mpr hroom⟩
    rw [engineStep_of_not_ready hwaits] at hstep
    cases hstep
    rfl
  · rw [step_host_turn hturn] at hstep
    cases hstep
    obtain ⟨hkeeps, houtq⟩ := hostStep_keepsCommand (s := usedTurn s rest) (by simp [hslot])
    exact ⟨hkeeps.change_env _, houtq⟩

end Sys2Proof.Machine
end

section
/-! PROOFS. The command words (30_encoding R100 to R111): a word is its three fields, a row of R103 matches exactly the words of
its mnemonic, and the illegal words are those that encode no command. -/

namespace Sys2Proof.Machine

/-! ### The fields of a word -/

/-- A word is its three fields (R100). -/
theorem word_eq_iff (w v : Word) : w = v ↔ wordOp w = wordOp v ∧ wordRsv w = wordRsv v ∧ wordImm w = wordImm v := by
  refine ⟨fun h => h ▸ ⟨rfl, rfl, rfl⟩, fun ⟨hop, hrsv, himm⟩ => ?_⟩
  have hfields (x : Word) : wordOp x ++ wordRsv x ++ wordImm x = x :=
    calc wordOp x ++ wordRsv x ++ wordImm x = x.extractLsb' 8 24 ++ x.extractLsb' 0 8 :=
          congrArg (· ++ wordImm x) (BitVec.extractLsb'_append_extractLsb'_eq_extractLsb' rfl)
      _ = x := (BitVec.extractLsb'_append_extractLsb'_eq_extractLsb' rfl).trans BitVec.extractLsb'_eq_self
  rw [← hfields w, ← hfields v, hop, hrsv, himm]

/-- RSV of a command's word is 0 (R100). -/
theorem wordRsv_encode (i : Instr) : wordRsv (encode i) = 0#16 := by
  rw [wordRsv, encode, BitVec.extractLsb'_append_eq_of_le (by decide), BitVec.extractLsb'_append_eq_right]

/-- IMM8 of a command's word is its operand byte (R100, R101). -/
theorem wordImm_encode (i : Instr) : wordImm (encode i) = i.imm := BitVec.extractLsb'_append_eq_right

/-- A word is a command's word exactly when its fields are the command's opcode, 0 and the command's operand byte (R100). -/
theorem eq_encode_iff (w : Word) (i : Instr) :
    w = encode i ↔ wordOp w = opcodeOf i.mnemonic ∧ wordRsv w = 0#16 ∧ wordImm w = i.imm := by
  rw [word_eq_iff, wordOp_encode, wordRsv_encode, wordImm_encode]

/-- A mnemonic's command keeps the byte it is given only in the form C8 (R101). -/
theorem instrOf_imm (m : Mnemonic) (imm : Byte) : (instrOf m imm).imm = if formOf m = .c8 then imm else 0#8 := by
  cases m <;> rfl

/-- A command is its mnemonic with its operand byte (R101). -/
theorem instrOf_mnemonic_imm (i : Instr) : instrOf i.mnemonic i.imm = i := by
  cases i <;> rfl

/-- No two mnemonics share an opcode (R103). -/
theorem opcodeOf_injective : Function.Injective opcodeOf := by
  intro m m'
  cases m <;> cases m' <;> decide

/-! ### The rows of R103 -/

/-- A row of R103 fixes OP and RSV to its mnemonic's opcode and 0, and in the form C0 also IMM8 to 0. -/
theorem opcodeTable_fields :
    ∀ r ∈ opcodeTable,
      wordOp r.pattern = opcodeOf r.mnemonic ∧ wordRsv r.pattern = 0#16 ∧ wordImm r.pattern = 0#8 ∧
      wordOp r.mask = BitVec.allOnes 8 ∧ wordRsv r.mask = BitVec.allOnes 16 ∧
      wordImm r.mask = if formOf r.mnemonic = .c8 then 0#8 else BitVec.allOnes 8 := by decide

/-- A row matches exactly the words of its mnemonic's commands (R104). -/
theorem rowMatches_iff {r : Row} (hr : r ∈ opcodeTable) (w : Word) :
    rowMatches w r = true ↔ w = encode (instrOf r.mnemonic (wordImm w)) := by
  obtain ⟨hop, hrsv, himm, hopMask, hrsvMask, himmMask⟩ := opcodeTable_fields r hr
  have hopAnd : wordOp (w &&& r.mask) = wordOp w := by
    rw [wordOp, BitVec.extractLsb'_and, ← wordOp, ← wordOp, hopMask, BitVec.and_allOnes]
  have hrsvAnd : wordRsv (w &&& r.mask) = wordRsv w := by
    rw [wordRsv, BitVec.extractLsb'_and, ← wordRsv, ← wordRsv, hrsvMask, BitVec.and_allOnes]
  have himmAnd : wordImm (w &&& r.mask) = wordImm w &&& wordImm r.mask := BitVec.extractLsb'_and
  rw [rowMatches, beq_iff_eq, word_eq_iff, hopAnd, hrsvAnd, himmAnd, hop, hrsv, himm, himmMask, eq_encode_iff,
    instrOf_mnemonic, instrOf_imm]
  split
  · rw [BitVec.and_zero, eq_self, eq_self]
  · rw [BitVec.and_allOnes]

/-- Every mnemonic has its row (R103). -/
theorem exists_row (m : Mnemonic) : ∃ r ∈ opcodeTable, r.mnemonic = m := by
  cases m <;> decide

/-! ### Decode and encode -/

/-- A word decodes only to the command whose word it is (R104). -/
theorem eq_encode_of_decode {w : Word} {i : Instr} (h : decode w = .ok i) : w = encode i := by
  unfold decode at h
  split at h
  case h_1 r hfind =>
    cases h
    exact (rowMatches_iff (List.mem_of_find?_eq_some hfind) w).mp (List.find?_some hfind)
  case h_2 => cases h

/-- Every command's word decodes to it: its mnemonic's row matches, and no row of another opcode does (R103, R104). -/
theorem decode_encode (i : Instr) : decode (encode i) = .ok i := by
  unfold decode
  split
  case h_1 r hfind =>
    have hword := (rowMatches_iff (List.mem_of_find?_eq_some hfind) _).mp (List.find?_some hfind)
    have hop : opcodeOf i.mnemonic = opcodeOf r.mnemonic := by
      rw [← wordOp_encode, hword, wordOp_encode, instrOf_mnemonic]
    rw [← opcodeOf_injective hop, wordImm_encode, instrOf_mnemonic_imm]
  case h_2 hnone =>
    obtain ⟨r, hr, hm⟩ := exists_row i.mnemonic
    refine absurd ((rowMatches_iff hr _).mpr ?_) (List.find?_eq_none.mp hnone r hr)
    rw [hm, wordImm_encode, instrOf_mnemonic_imm]

/-- Settles O2: a word decodes only to its own command, and every command's word decodes to it. -/
theorem decodeInvertsEncode : Obligations.DecodeInvertsEncode := by
  unfold Obligations.DecodeInvertsEncode
  exact fun w i => ⟨eq_encode_of_decode, fun h => h ▸ decode_encode i⟩

/-- Settles O1: the six words are the encoder's, and each decodes to its command by `decode_encode`. -/
theorem workedEncodings : Obligations.WorkedEncodings := by
  unfold Obligations.WorkedEncodings
  exact ⟨rfl, rfl, rfl, rfl, rfl, rfl, decode_encode (.fadd 0x61#8), decode_encode (.pkb 0xFF#8), decode_encode (.din 0xE2#8),
    decode_encode .build, decode_encode .pkend, decode_encode .dend⟩

/-! ### Illegal words -/

/-- The opcodes R103 lists are those of the mnemonics. -/
theorem mem_opcodes_iff (op : Byte) :
    op ∈ [0x00#8, 0x01#8, 0x02#8, 0x10#8, 0x11#8, 0x20#8, 0x21#8, 0x30#8, 0x31#8, 0x32#8, 0x40#8, 0x41#8, 0x42#8] ↔
      ∃ m, opcodeOf m = op := by
  constructor
  · intro h
    obtain ⟨r, -, hr⟩ := List.mem_map.mp (show op ∈ opcodeTable.map fun r => opcodeOf r.mnemonic from h)
    exact ⟨r.mnemonic, hr⟩
  · rintro ⟨m, rfl⟩
    cases m <;> decide

/-- The opcodes of FADD, PKB and DIN are those of the form C8 (R101, R103). -/
theorem opcodeOf_mem_byteOpcodes_iff (m : Mnemonic) : opcodeOf m ∈ [0x11#8, 0x31#8, 0x41#8] ↔ formOf m = .c8 := by
  cases m <;> decide

/-- The words that encode a command are those no clause of R105 refuses. -/
theorem exists_eq_encode_iff (w : Word) :
    (∃ i, w = encode i) ↔
      (∃ m, opcodeOf m = wordOp w) ∧ wordRsv w = 0#16 ∧ (wordOp w ∈ [0x11#8, 0x31#8, 0x41#8] ∨ wordImm w = 0#8) := by
  constructor
  · rintro ⟨i, rfl⟩
    have hform : formOf i.mnemonic = .c8 ∨ i.imm = 0#8 := by
      simpa [Instr.wellFormed] using Laws.every_instr_wellFormed i
    rw [wordOp_encode, wordRsv_encode, wordImm_encode, opcodeOf_mem_byteOpcodes_iff]
    exact ⟨⟨i.mnemonic, rfl⟩, rfl, hform⟩
  · rintro ⟨⟨m, hop⟩, hrsv, himm⟩
    rw [← hop, opcodeOf_mem_byteOpcodes_iff] at himm
    refine ⟨instrOf m (wordImm w), (eq_encode_iff w _).mpr ⟨by rw [instrOf_mnemonic, hop], hrsv, ?_⟩⟩
    rw [instrOf_imm]
    split
    · rfl
    · exact himm.resolve_left ‹_›

/-- Decode refuses exactly the words that encode no command (R104, R105). -/
theorem decode_error_iff (w : Word) : (∃ e, decode w = .error e) ↔ ¬ ∃ i, w = encode i := by
  cases h : decode w with
  | ok i => simpa using ⟨i, eq_encode_of_decode h⟩
  | error e =>
    refine ⟨fun _ ⟨i, hi⟩ => ?_, fun _ => ⟨e, rfl⟩⟩
    rw [hi, decode_encode] at h
    cases h

/-- An illegal word executed with ERR = 0 is the error entry of ILLEGAL_CMD and Complete, and nothing else (R231, R240). -/
theorem execWord_illegal {w : Word} {s : State} {e : Illegal} (hdec : decode w = .error e) (herr : s.latch.err = false) :
    execWord w s = .next (raisedState 0x01#8 0#32 w s) := by
  simp only [execWord, hdec, runIllegal_next, herr]
  rfl

/-- Settles O3: the illegal words are those outside `exists_eq_encode_iff`, and `execWord_illegal` gives their step. -/
theorem illegalWordsRaise : Obligations.IllegalWordsRaise := by
  unfold Obligations.IllegalWordsRaise
  refine fun w => ⟨?_, fun s _ herr ⟨e, hdec⟩ => execWord_illegal hdec herr⟩
  rw [decode_error_iff, exists_eq_encode_iff, ← mem_opcodes_iff, not_and_or, not_and_or, not_or]
  rfl

end Sys2Proof.Machine
end

section
/-! PROOFS. The expansions of host scripts (30_encoding R110): LOADCT's ten writes load one table entry, and a poll of WAIT. -/

namespace Sys2Proof.Machine

/-! ### LOADCT -/

@[simp] theorem ctSet_ctAt (ct : CodeTable) (sym : Byte) : ctSet ct sym (ctAt ct sym) = ct := Vector.set_getElem_self _

@[simp] theorem ctSet_ctSet (ct : CodeTable) (sym : Byte) (e e' : CtEntry) : ctSet (ctSet ct sym e) sym e' = ctSet ct sym e' :=
  Vector.set_set _ _

/-- The entry after CT_CODEk is written with slice k of a code, for each k of a list in turn (R51, R110). -/
def withSlices (source : CtEntry) (ks : List (BitVec 3)) (e : CtEntry) : CtEntry :=
  ks.foldl (fun e k => withCodeWord e k (codeWord source k)) e

@[simp] theorem withSlices_nil (source e : CtEntry) : withSlices source [] e = e := rfl

theorem withSlices_cons (source : CtEntry) (k : BitVec 3) (ks : List (BitVec 3)) (e : CtEntry) :
    withSlices source (k :: ks) e = withSlices source ks (withCodeWord e k (codeWord source k)) := rfl

/-- Writing slice k of a code leaves that code's bits in slice k and the others as they were (R51). -/
theorem withCodeWord_codeWord_getLsbD (source e : CtEntry) (k : BitVec 3) (n : Nat) (hn : n < 256) :
    (withCodeWord e k (codeWord source k)).code.getLsbD n =
      if BitVec.ofNat 3 (n / 32) = k then source.code.getLsbD n else e.code.getLsbD n := by
  have hk : BitVec.ofNat 3 (n / 32) = k ↔ n / 32 = k.toNat := by
    rw [← BitVec.toNat_inj, BitVec.toNat_ofNat, Nat.mod_eq_of_lt (by omega)]
  rw [withCodeWord_getLsbD _ _ _ _ hn]
  simp only [hk]
  split
  next h =>
    rw [codeWord, BitVec.getLsbD_extractLsb', show 32 * k.toNat + n % 32 = n by omega]
    simp [Nat.mod_lt n]
  next => rfl

/-- A bit is the source's once its slice has been written (R51). -/
theorem withSlices_getLsbD (source : CtEntry) (ks : List (BitVec 3)) (e : CtEntry) (n : Nat) (hn : n < 256) :
    (withSlices source ks e).code.getLsbD n =
      if BitVec.ofNat 3 (n / 32) ∈ ks then source.code.getLsbD n else e.code.getLsbD n := by
  induction ks generalizing e with
  | nil => rfl
  | cons k ks ih =>
    rw [withSlices_cons, ih, withCodeWord_codeWord_getLsbD source e k n hn]
    by_cases hk : BitVec.ofNat 3 (n / 32) = k <;> simp [hk]

/-- All eight slices make up the code (R51). -/
theorem withSlices_code (source : CtEntry) {ks : List (BitVec 3)} (e : CtEntry) (hall : ∀ k, k ∈ ks) :
    (withSlices source ks e).code = source.code :=
  BitVec.eq_of_getLsbD_eq fun n hn => by rw [withSlices_getLsbD source ks e n hn, if_pos (hall _)]

/-- A list of CT_CODEk writes with BUSY = 0 in IDLE changes only the selected entry (R51, R88). `f` is any reading of a script
that issues the transaction of each `.bus` operation. -/
theorem foldl_codeWrites {f : State → HostOp → State} (hf : ∀ u tx, f u (.bus tx) = (access tx u).2) (source : CtEntry)
    (ks : List (BitVec 3)) (s : State) (hs : s.slot = none) (hp : s.phase = .idle) :
    (ks.map fun k => scriptWrite (.ctCode k) (codeWord source k)).foldl f s =
      { s with ct := ctSet s.ct s.ctSel (withSlices source ks (ctAt s.ct s.ctSel)) } := by
  induction ks generalizing s with
  | nil => simp
  | cons k ks ih =>
    rw [List.map_cons, List.foldl_cons, scriptWrite, hf, access_write_config_stored _ _ _ rfl hs hp, ih _ (by exact hs) (by exact hp)]
    simp [storeConfig, withSlices_cons]

/-- LOADCT sym, len, code with BUSY = 0 in IDLE selects the entry and loads it (R110, R176). -/
theorem foldl_scriptLoadct {f : State → HostOp → State} (hf : ∀ u tx, f u (.bus tx) = (access tx u).2) (sym len : Byte)
    (code : BitVec 256) (s : State) (hs : s.slot = none) (hp : s.phase = .idle) :
    (scriptLoadct sym len code).foldl f s = { s with ctSel := sym, ct := ctSet s.ct sym ⟨len, code⟩ } := by
  have hbyte (b : Byte) : (b.zeroExtend 32).extractLsb' 0 8 = b := by
    rw [BitVec.zeroExtend, BitVec.extractLsb'_setWidth_of_le (by decide), BitVec.extractLsb'_eq_self]
  have hselect : f s (scriptWrite .ctSel (sym.zeroExtend 32)) = { s with ctSel := sym } := by
    rw [scriptWrite, hf, access_write_plain _ _ _ (by decide) rfl, storePlain, hbyte]
  rw [scriptLoadct, List.append_assoc, List.singleton_append, List.foldl_cons, hselect, List.foldl_append,
    foldl_codeWrites hf ⟨len, code⟩ _ _ (by exact hs) (by exact hp), List.foldl_cons, List.foldl_nil, scriptWrite, hf,
    access_write_config_stored _ _ _ rfl (by exact hs) (by exact hp), storeConfig, hbyte]
  simp [withSlices_code _ _ (show ∀ k, k ∈ [0#3, 1#3, 2#3, 3#3, 4#3, 5#3, 6#3, 7#3] by decide)]

/-- Settles O52: the expansion is one update of CT[sym] and CT_SEL. -/
theorem loadctLoadsEntry : Obligations.LoadctLoadsEntry := by
  unfold Obligations.LoadctLoadsEntry
  intro s sym len code hs hp
  rw [foldl_scriptLoadct (fun _ _ => rfl) sym len code s hs hp]
  exact ⟨ctAt_ctSet_same .., fun u hu => ctAt_ctSet_ne _ _ u _ hu, rfl⟩

/-! ### WAIT -/

/-- OUTAVAIL is 0 exactly when OUTQ is empty (R26). -/
theorem outAvail_eq_false_iff (s : State) : outAvail s = false ↔ s.outq = [] := by
  simp [outAvail, outCount, List.length_pos_iff]

/-- What a poll of WAIT leaves of the script: it reads BUSY and OUTAVAIL of STATUS (R26, R110). -/
theorem hostStep_wait_script {s : State} {rest : List HostOp} (h : s.env.script = .wait :: rest) :
    (hostStep s).env.script =
      if s.outq ≠ [] then .take :: .wait :: rest else if s.slot = none then rest else .wait :: rest := by
  obtain ⟨hbusy, -, -, -, havail, -⟩ := status_bits s
  have hpoll : (hostStep s).env.script = afterWaitPoll (status s) rest := by
    simp only [hostStep, h, readStatusTx, access_read_value .status s (by decide) (.inl rfl)]
    rfl
  rw [hpoll, afterWaitPoll, hbusy, havail]
  cases ha : outAvail s with
  | true =>
    have hq : s.outq ≠ [] := fun hq => by simp [(outAvail_eq_false_iff s).mpr hq] at ha
    simp [hq]
  | false =>
    have hq := (outAvail_eq_false_iff s).mp ha
    cases hs : s.slot <;> simp [busy, hq, hs]

/-- Settles O53: the three outcomes of a poll are three different scripts. -/
theorem waitEndsOnlyWhenDrained : Obligations.WaitEndsOnlyWhenDrained := by
  unfold Obligations.WaitEndsOnlyWhenDrained
  intro s rest h
  rw [hostStep_wait_script h]
  refine ⟨?_, fun hq => if_pos hq, fun hs hq => by rw [if_neg (not_not.mpr hq), if_neg hs]⟩
  by_cases hq : s.outq = []
  · by_cases hs : s.slot = none <;> simp [hq, hs]
  · have hlonger : HostOp.take :: HostOp.wait :: rest ≠ rest := fun heq => by
      have := congrArg List.length heq
      simp only [List.length_cons] at this
      omega
    simp [hq, hlonger]

end Sys2Proof.Machine
end

section
/-! PROOFS. The control of the command stream: a CMD write fills SLOT, the engine's step runs the word or waits, Execute checks
the phase, and the commands that always run (40_control R120 to R128). -/

namespace Sys2Proof.Machine

/-! ### Submission -/

/-- An empty SLOT takes any word (R120). -/
theorem submitCommand_of_empty {s : State} (w : Word) (hslot : s.slot = none) :
    submitCommand w s = (.write false, { s with slot := some w }) := by
  simp only [submitCommand, hslot]

/-- An occupied SLOT makes the write a BusError, and the word is lost (R120). -/
theorem submitCommand_of_occupied {s : State} (w : Word) (hslot : s.slot ≠ none) : submitCommand w s = writeError s := by
  obtain ⟨v, hv⟩ := Option.ne_none_iff_exists'.mp hslot
  simp only [submitCommand, hv]

/-- Settles O42: a CMD write submits the word, and SLOT alone decides the answer. -/
theorem cmdWriteSubmits : Obligations.CmdWriteSubmits := by
  unfold Obligations.CmdWriteSubmits
  intro s w
  have hsubmit : access (.write 0x00C#12 w 0b1111#4) s = submitCommand w s := access_write_reg .cmd w s
  rw [hsubmit]
  exact ⟨submitCommand_of_empty w, submitCommand_of_occupied w⟩

/-! ### The engine's step -/

/-- With no turn named an enabled engine moves (R121, log 1). -/
theorem step_no_turn_of_ready {s : State} (hturns : s.env.turns = []) (hready : engineReady s = true) :
    step s = engineStep s := by
  simp only [step, takeTurn, hturns, hready, if_true]

/-- A turn of the `rst` event (R261, log 1). -/
theorem step_rst_turn {s : State} {rest : List Turn} (h : s.env.turns = .rst :: rest) :
    step s = .next (rstStep (usedTurn s rest)) := by
  simp only [step, takeTurn, h, usedTurn]

/-- An enabled engine runs the command its word decodes to (R121, R123). -/
theorem engineStep_of_ready {s : State} {w : Word} {i : Instr} (hslot : s.slot = some w) (hdec : decode w = .ok i)
    (hready : engineReady s = true) : engineStep s = exec i s := by
  simp only [engineStep, hslot, hready, if_true, execWord, hdec]

/-- Settles O4: by `engineReady_iff` the engine is enabled, before and after a named turn is used up. -/
theorem stepRunsDecodedCommand : Obligations.StepRunsDecodedCommand := by
  unfold Obligations.StepRunsDecodedCommand
  intro s w i hslot hdec hroom
  refine ⟨fun hturns => ?_, fun rest hturns => ?_⟩
  · have hready := (engineReady_iff hslot).mpr hroom
    rw [step_no_turn_of_ready hturns hready, engineStep_of_ready hslot hdec hready]
  · have hready : engineReady (usedTurn s rest) = true := (engineReady_iff hslot).mpr hroom
    rw [step_engine_turn hturns]
    exact engineStep_of_ready (s := usedTurn s rest) hslot hdec hready

/-- No word needs more than 32 free bytes (R122). -/
theorem need_le (op : Byte) : need op ≤ 32 := by
  unfold need
  split_ifs <;> decide

/-- Without an enabled step the engine's turn only uses the turn up (logs 1, 2). -/
theorem step_engine_turn_of_not_ready {s : State} {rest : List Turn} (hturns : s.env.turns = .engine :: rest)
    (hwaits : engineReady s = false) : step s = .next (usedTurn s rest) := by
  rw [step_engine_turn hturns]
  exact engineStep_of_not_ready (s := usedTurn s rest) hwaits

/-- The engine's step is not enabled exactly when there is no command or a held one (R26, R121). -/
theorem engineReady_eq_false_iff (s : State) : engineReady s = false ↔ s.slot = none ∨ held s = true := by
  cases hslot : s.slot with
  | none => simp [engineReady, hslot]
  | some w => simp [engineReady, held, hslot]

/-- Settles O5: an empty OUTQ has the 32 bytes of `need_le`, and a turn without an enabled step is no word or a held one. -/
theorem engineWaits : Obligations.EngineWaits := by
  unfold Obligations.EngineWaits
  refine ⟨rfl, rfl, rfl, fun op hpkb hdin hpkend => ?_, fun s w hslot hempty hdepth => ?_, fun s rest hturns => ?_⟩
  · rw [need, if_neg hpkb, if_neg hdin, if_neg hpkend]
  · rw [engineReady_iff hslot, hempty, List.length_nil, Nat.zero_add]
    exact .inr ((need_le _).trans hdepth)
  · obtain ⟨-, -, -, hbit, -⟩ := status_bits s
    rw [hbit]
    refine ⟨fun hslot => ⟨?_, by simp [held, hslot]⟩, fun w hslot herr hroom => ?_⟩
    · exact step_engine_turn_of_not_ready hturns ((engineReady_eq_false_iff s).mpr (.inl hslot))
    · have hheld : held s = true := (held_iff s).mpr ⟨w, hslot, herr, hroom⟩
      exact ⟨step_engine_turn_of_not_ready hturns ((engineReady_eq_false_iff s).mpr (.inr hheld)), hheld⟩

/-! ### Execute -/

/-- Execute pushes what the command's rule pushes or nothing: a discarded command and the error entry leave OUTQ (R123, R240). -/
theorem execute_outq (i : Instr) (s : State) (hi : i ≠ .srst) :
    ∃ out, (execute i (effectOf i) s).outq = s.outq ++ out ∧ out.length ≤ need (wordOp (encode i)) := by
  rcases execute_cases i (effectOf i) s with ⟨-, -, heq⟩ | ⟨-, -, heq⟩ | ⟨-, -, ⟨t, heff, heq⟩ | ⟨c, x, t, heff, heq⟩⟩ <;>
    rw [heq]
  · exact ⟨[], by simp⟩
  · exact ⟨[], by simp⟩
  · simpa [heff] using effectOf_outq i s hi
  · simpa [heff] using effectOf_outq i s hi

/-- Settles O6: Complete leaves OUTQ as `execute_outq` says. -/
theorem pushesWithinNeed : Obligations.PushesWithinNeed := by
  unfold Obligations.PushesWithinNeed
  intro i s t hi hexec
  rw [exec_next] at hexec
  cases hexec
  exact execute_outq i s hi

/-- With ERR = 0 a command outside its phases is the error entry of BAD_PHASE and Complete, and nothing else (R125, R232). -/
theorem exec_badPhase {i : Instr} {s : State} (herr : s.latch.err = false) (hphase : allowed i.mnemonic s.phase = false) :
    exec i s = .next (raisedState 0x02#8 ((phaseBits s.phase).zeroExtend 32) (encode i) s) := by
  have hnotSrst : (i.mnemonic == .srst) = false := by
    rw [beq_eq_false_iff_ne]
    intro hsrst
    simp [hsrst, allowed] at hphase
  have hentry : execute i (effectOf i) s = errorEntry .badPhase ((phaseBits s.phase).zeroExtend 32) (encode i) s := by
    simp [execute, herr, hphase]
  rw [exec_next, hentry, hnotSrst]
  rfl

/-- Settles O7: R125's table phase by phase, and `exec_badPhase` with the phase's encoding of R27. -/
theorem badPhaseAborts : Obligations.BadPhaseAborts := by
  unfold Obligations.BadPhaseAborts
  refine ⟨fun _ => ⟨rfl, rfl, rfl⟩, fun p => ?_, fun p => ?_, fun p => ?_, fun i s herr hphase => ?_⟩
  · simp [allowed]
  · simp [allowed]
  · simp [allowed]
  · rw [exec_badPhase herr hphase]
    cases s.phase <;> rfl

/-! ### The commands that always run -/

/-- The commands that run while ERR = 1 are allowed in every phase (R123, R125). -/
theorem allowed_of_runsInError {m : Mnemonic} (hrun : runsInError m = true) (p : Phase) : allowed m p = true := by
  cases m with
  | nop | srst | errclr => rfl
  | _ => cases hrun

/-- A command that runs while ERR = 1 runs in every state (R123, R125). -/
theorem exec_of_runsInError {i : Instr} {s t : State} (hrun : runsInError i.mnemonic = true)
    (heff : effectOf i s = .done t) : exec i s = .next (complete (i.mnemonic == .srst) t) := by
  have hexecute : execute i (effectOf i) s = t := by
    simp [execute, hrun, allowed_of_runsInError hrun, heff]
  rw [exec_next, hexecute]

/-- Settles O10: NOP's rule ends at once. -/
theorem nopOnlyCompletes : Obligations.NopOnlyCompletes := by
  unfold Obligations.NopOnlyCompletes
  exact ⟨rfl, fun _ => exec_of_runsInError (i := .nop) rfl rfl⟩

/-- Settles O12: ERRCLR's rule is the return from an error. -/
theorem errclrClears : Obligations.ErrclrClears := by
  unfold Obligations.ErrclrClears
  exact ⟨rfl, fun _ => exec_of_runsInError (i := .errclr) rfl rfl⟩

/-- Right after a reset no field of STATUS is 1, the empty OUTQ being full only at the depth 0 (R26, R61). -/
theorem status_resetBlock (s : State) (hdepth : s.cfg.outqDepth ≠ 0) : status (resetBlock s) = 0#32 := by
  have hfull : outFull (resetBlock s) = false := beq_false_of_ne hdepth.symm
  calc status (resetBlock s)
      = 0#23 ++ 0#1 ++ BitVec.ofBool (outFull (resetBlock s)) ++ 0#1 ++ 0#1 ++ 0#1 ++ 0#2 ++ 0#1 ++ 0#1 := rfl
    _ = 0#32 := by rw [hfull]; decide

/-- Right after a reset no field of INTPEND is 1 (R33, R61). -/
theorem intPend_resetBlock (s : State) : intPend (resetBlock s) = 0#32 := by
  simp [intPend, resetBlock_eq, outAvail, outCount, ErrLatch.clear]

/-- After a reset Complete has nothing to do: SLOT is empty, and SRST sets no CMDDONE (R124, R127). -/
theorem complete_resetBlock (s : State) : complete true (resetBlock s) = resetBlock s := rfl

/-- Settles O11: SRST and `rst` both end in `resetBlock`, whose fields are those of R61. -/
theorem srstAndRstReset : Obligations.SrstAndRstReset := by
  unfold Obligations.SrstAndRstReset
  refine ⟨rfl, fun s => ⟨resetBlock s, ?_, rfl, status_resetBlock s, intPend_resetBlock s⟩, fun s rest hturns =>
    ⟨resetBlock (usedTurn s rest), step_rst_turn hturns, rfl⟩⟩
  rw [exec_srst, complete_resetBlock]

end Sys2Proof.Machine
end

section
/-! PROOFS. The frequency counter: what FCLR and FADD do, and the counts after a list of FADDs (41_frequency R141 to R143). -/

namespace Sys2Proof.Machine

/-! ### FCLR and FADD -/

/-- Settles O14: FCLR's rule ends with 256 zero frequencies, and Complete keeps them. -/
theorem fclrClears : Obligations.FclrClears := by
  unfold Obligations.FclrClears
  intro s herr hidle
  have hallow : allowed Instr.fclr.mnemonic s.phase = true := by rw [hidle]; rfl
  exact ⟨_, exec_done .fclr s _ herr hallow rfl, fun sym => by simp [freqAt], rfl, rfl⟩

/-- Settles O15: FADD's rule ends below the largest TOTAL and raises OVERFLOW at it. -/
theorem faddCounts : Obligations.FaddCounts := by
  unfold Obligations.FaddCounts
  intro s sym herr hidle
  have hallow : allowed (Instr.fadd sym).mnemonic s.phase = true := by rw [hidle]; rfl
  refine ⟨fun hlow => ?_, fun hfull => ?_⟩
  · have hne : s.total ≠ Config.countMax := fun h => hlow (by rw [h]; rfl)
    refine ⟨_, exec_done (.fadd sym) s _ herr hallow (if_neg hne), ?_, fun u hu => ?_, rfl, rfl⟩
    · exact freqAt_setFreq_same sym _ s
    · exact freqAt_setFreq_ne sym u _ s hu
  · have heq : s.total = Config.countMax := BitVec.eq_of_toNat_eq hfull
    exact exec_raise (.fadd sym) s s .overflow (operandNumber sym) herr hallow (if_pos heq)

/-! ### A list of FADDs -/

/-- A list of commands executes its first command and goes on from the state that one leaves (R89). -/
theorem execAll_cons {i : Instr} {s t : State} (h : exec i s = .next t) (is : List Instr) :
    execAll (i :: is) s = execAll is t := by
  simp [execAll, h]

/-- While ERR = 1 every command but NOP, SRST and ERRCLR is discarded: Complete is all it does (R123, R242). -/
theorem exec_of_err {i : Instr} {s : State} (herr : s.latch.err = true) (hrun : runsInError i.mnemonic = false) :
    exec i s = .next (complete (i.mnemonic == .srst) s) := by
  simp [exec_next, execute, herr, hrun]

/-- FADDs executed while ERR = 1 leave ERR = 1 (R242). -/
theorem execAll_fadds_of_err (bs : List Byte) {s : State} (herr : s.latch.err = true) :
    ∃ t, execAll (bs.map .fadd) s = .next t ∧ t.latch.err = true := by
  induction bs generalizing s with
  | nil => exact ⟨s, rfl, herr⟩
  | cons b bs ih =>
    rw [List.map_cons, execAll_cons (exec_of_err (i := .fadd b) herr rfl)]
    exact ih herr

/-- The engine is ready to count and has counted exactly the bytes `bs` since the last FCLR (R143). -/
structure HasCounted (bs : List Byte) (s : State) : Prop where
  noErr : s.latch.err = false
  idle : s.phase = .idle
  total : s.total.toNat = bs.length
  freq : ∀ sym, (freqAt s sym).toNat = bs.count sym

/-- After FCLR no byte is counted (R141). -/
theorem hasCounted_fclr {s : State} (herr : s.latch.err = false) (hidle : s.phase = .idle) :
    ∃ t, exec .fclr s = .next t ∧ HasCounted [] t := by
  obtain ⟨t, hexec, hfreq, htotal, hframe⟩ := fclrClears s herr hidle
  refine ⟨t, hexec, ?_, ?_, by simp [htotal], fun sym => by simp [hfreq]⟩
  · rw [hframe]; exact herr
  · rw [hframe]; exact hidle

/-- FADD b below the largest TOTAL counts b; as FREQ[b] ≤ TOTAL, neither count wraps (R142). -/
theorem HasCounted.fadd {bs : List Byte} {s : State} (h : HasCounted bs s) (b : Byte) (hlow : bs.length < 2 ^ 32 - 1) :
    ∃ t, exec (.fadd b) s = .next t ∧ HasCounted (b :: bs) t := by
  obtain ⟨t, hexec, hsame, hother, htotal, hframe⟩ := (faddCounts s b h.noErr h.idle).1 (by rw [h.total]; omega)
  refine ⟨t, hexec, ?_, ?_, ?_, fun sym => ?_⟩
  · rw [hframe]; exact h.noErr
  · rw [hframe]; exact h.idle
  · rw [htotal, BitVec.toNat_add_of_lt (by rw [h.total]; simp; omega), h.total]
    rfl
  · by_cases hsym : sym = b
    · subst hsym
      have hle : bs.count sym ≤ bs.length := List.count_le_length
      rw [hsame, BitVec.toNat_add_of_lt (by rw [h.freq]; simp; omega), h.freq, List.count_cons_self]
      rfl
    · rw [hother sym hsym, h.freq, List.count_cons_of_ne (Ne.symm hsym)]

/-- FADD at the largest TOTAL raises an error (R142, R234). -/
theorem HasCounted.fadd_full {bs : List Byte} {s : State} (h : HasCounted bs s) (b : Byte) (hfull : bs.length = 2 ^ 32 - 1) :
    ∃ t, exec (.fadd b) s = .next t ∧ t.latch.err = true :=
  ⟨_, (faddCounts s b h.noErr h.idle).2 (by rw [h.total, hfull]), rfl⟩

/-- FADDs that fit below the largest TOTAL are all counted, the latest first (R143). -/
theorem HasCounted.fadds {bs : List Byte} (cs : List Byte) {s : State} (h : HasCounted bs s)
    (hfit : bs.length + cs.length ≤ 2 ^ 32 - 1) :
    ∃ t, execAll (cs.map .fadd) s = .next t ∧ HasCounted (cs.reverse ++ bs) t := by
  induction cs generalizing bs s with
  | nil => exact ⟨s, rfl, h⟩
  | cons c cs ih =>
    rw [List.length_cons] at hfit
    obtain ⟨u, hexec, hu⟩ := h.fadd c (by omega)
    obtain ⟨t, ht, hcounted⟩ := ih hu (by rw [List.length_cons]; omega)
    exact ⟨t, by rw [List.map_cons, execAll_cons hexec, ht], by simpa using hcounted⟩

/-- Among more FADDs than fit one raises an error, and those after it leave ERR = 1 (R143). -/
theorem HasCounted.fadds_overflow {bs : List Byte} (cs : List Byte) {s : State} (h : HasCounted bs s)
    (hmany : 2 ^ 32 ≤ bs.length + cs.length) :
    ∃ t, execAll (cs.map .fadd) s = .next t ∧ t.latch.err = true := by
  have hle : bs.length < 2 ^ 32 := h.total ▸ s.total.isLt
  induction cs generalizing bs s with
  | nil =>
    rw [List.length_nil] at hmany
    omega
  | cons c cs ih =>
    rw [List.length_cons] at hmany
    rw [List.map_cons]
    by_cases hfull : bs.length = 2 ^ 32 - 1
    · obtain ⟨u, hexec, herr⟩ := h.fadd_full c hfull
      rw [execAll_cons hexec]
      exact execAll_fadds_of_err cs herr
    · obtain ⟨u, hexec, hu⟩ := h.fadd c (by omega)
      rw [execAll_cons hexec]
      exact ih hu (by rw [List.length_cons]; omega) (by rw [List.length_cons]; omega)

/-- Settles O16: FCLR leaves nothing counted, and from there the FADDs either fit (`HasCounted.fadds`) or one of them overflows
(`HasCounted.fadds_overflow`). -/
theorem frequenciesAreOccurrenceCounts : Obligations.FrequenciesAreOccurrenceCounts := by
  unfold Obligations.FrequenciesAreOccurrenceCounts
  intro s bs herr hidle
  obtain ⟨u, hclear, hu⟩ := hasCounted_fclr herr hidle
  rw [execAll_cons hclear]
  refine ⟨fun hfit => ?_, fun hmany => hu.fadds_overflow bs (by simpa using hmany)⟩
  obtain ⟨t, ht, hcounted⟩ := hu.fadds bs (by simpa using hfit)
  exact ⟨t, ht, hcounted.noErr, by simpa using hcounted.total, fun sym => by simpa using hcounted.freq sym⟩

end Sys2Proof.Machine
end

section
/-! PROOFS. ExtractMin takes the smallest key of a queue, and what holds of a forest before BUILD's loop and is kept by every
combination of two smallest entries holds after it (42_tree R150, R153). -/

namespace Sys2Proof.Machine

/-! ### ExtractMin -/

/-- The order of R153 on keys: weight first, then index. -/
def KeyLe (a b : Key) : Prop := a.w.toNat < b.w.toNat ∨ (a.w.toNat = b.w.toNat ∧ a.idx.toNat ≤ b.idx.toNat)

theorem KeyLe.refl (a : Key) : KeyLe a a := .inr ⟨rfl, Nat.le_refl _⟩

theorem KeyLe.trans {a b c : Key} (hab : KeyLe a b) (hbc : KeyLe b c) : KeyLe a c := by
  unfold KeyLe at *
  omega

/-- Less of R153 is strict: it fails exactly when the other key is first or the same. -/
theorem keyLess_eq_false_iff (a b : Key) : keyLess a b = false ↔ KeyLe b a := by
  simp only [keyLess, KeyLe, ← BitVec.toNat_inj, Bool.or_eq_false_iff, Bool.and_eq_false_iff, decide_eq_false_iff_not,
    beq_eq_false_iff_ne, ne_eq]
  omega

theorem KeyLe.of_keyLess {a b : Key} (h : keyLess a b = true) : KeyLe a b := by
  simp only [keyLess, Bool.or_eq_true, Bool.and_eq_true, decide_eq_true_eq, beq_iff_eq, ← BitVec.toNat_inj] at h
  unfold KeyLe
  omega

/-- What ExtractMin removes and leaves is together the queue, and the removed key is at most every key of it (R153). -/
theorem extractMin_spec {q rest : List Key} {m : Key} (h : extractMin q = some (m, rest)) :
    (m :: rest).Perm q ∧ ∀ k ∈ q, KeyLe m k := by
  induction q generalizing m rest with
  | nil => simp [extractMin] at h
  | cons k ks ih =>
    rw [extractMin] at h
    split at h
    · next hnone =>
      obtain rfl := (extractMin_eq_none ks).mp hnone
      cases h
      exact ⟨.refl _, by simpa using KeyLe.refl k⟩
    · next m' rest' hsome =>
      obtain ⟨hperm, hmin⟩ := ih hsome
      split at h <;> cases h
      · next hless =>
        have hkm := KeyLe.of_keyLess hless
        exact ⟨.refl _, List.forall_mem_cons.mpr ⟨.refl k, fun x hx => hkm.trans (hmin x hx)⟩⟩
      · next hless =>
        have hmk := (keyLess_eq_false_iff k m).mp (by simpa using hless)
        exact ⟨(List.Perm.swap k m rest').trans (hperm.cons k), List.forall_mem_cons.mpr ⟨hmk, hmin⟩⟩

/-- Settles O19: `extractMin_eq_none` says when ExtractMin answers, `extractMin_spec` what it answers. -/
theorem extractMinIsSmallest : Obligations.ExtractMinIsSmallest := by
  unfold Obligations.ExtractMinIsSmallest
  refine ⟨rfl, fun q hq => ?_⟩
  obtain ⟨⟨m, rest⟩, hextract⟩ := Option.ne_none_iff_exists'.mp (mt (extractMin_eq_none q).mp hq)
  exact ⟨m, rest, hextract, extractMin_spec hextract⟩

/-! ### The merge loop -/

/-- A property that every combination keeps is kept by the loop of R150. The two entries combined are of the queue, the left
one with the smaller key (R153, R154). -/
theorem mergeAll_keeps {P : Forest → Prop}
    (hcombine : ∀ f a b rest, (a :: b :: rest).Perm f.pq → KeyLe a b → P f → P (combine f a b rest))
    (fuel : Nat) {f : Forest} (h : P f) : P (mergeAll fuel f) := by
  induction fuel generalizing f with
  | zero => exact h
  | succ fuel ih =>
    rw [mergeAll]
    split
    · exact h
    next a pq1 hfirst =>
      split
      · exact h
      next b pq2 hsecond =>
        obtain ⟨hperm1, hmin⟩ := extractMin_spec hfirst
        obtain ⟨hperm2, -⟩ := extractMin_spec hsecond
        have hperm := (hperm2.cons a).trans hperm1
        exact ih (hcombine f a b pq2 hperm (hmin b (hperm.subset (by simp))) h)

end Sys2Proof.Machine
end

section
/-! PROOFS. The leaves of BUILD and the node store and queue its loop begins with (42_tree R151), and BUILD as a step: EMPTY
with no leaf, the whole next state otherwise (R150, R159, R160). -/

namespace Sys2Proof.Machine

/-! ### The leaves -/

/-- The symbols with FREQ[s] ≠ 0, ascending: their number is the n of R150. -/
def seenSymbols (s : State) : List Byte := allSymbols.filter fun sym => freqAt s sym ≠ 0#32

/-- The leaf of a symbol (R151). -/
def leafNode (s : State) (sym : Byte) : Node := { w := freqAt s sym, leaf := true, sym := sym, left := 0#9, right := 0#9 }

theorem mem_seenSymbols (s : State) (sym : Byte) : sym ∈ seenSymbols s ↔ freqAt s sym ≠ 0#32 := by
  simp [seenSymbols, mem_allSymbols]

@[simp] theorem seenSymbols_length (s : State) : (seenSymbols s).length = symbolsSeen s := rfl

theorem freq_toList (s : State) : s.freq.toList = allSymbols.map (freqAt s) := by
  refine List.ext_getElem (by simp) fun i hi hi' => ?_
  have hlt : i < 256 := by simpa using hi
  simp [allSymbols_getElem, freqAt, Nat.mod_eq_of_lt hlt]

/-- One leaf per symbol with FREQ[s] ≠ 0, in ascending symbol order (R151). -/
theorem leavesOf_freq (s : State) : leavesOf s.freq = (seenSymbols s).map (leafNode s) := by
  rw [leavesOf, freq_toList, ← List.map_prod_left_eq_zip, List.filterMap_map, seenSymbols, ← List.filterMap_eq_map,
    List.filterMap_filter]
  refine List.filterMap_congr fun sym _ => ?_
  by_cases hzero : freqAt s sym = 0#32 <;> simp [hzero, leafNode]

@[simp] theorem leavesOf_freq_length (s : State) : (leavesOf s.freq).length = symbolsSeen s := by
  rw [leavesOf_freq, List.length_map, seenSymbols_length]

theorem seenSymbols_ascend (s : State) : (seenSymbols s).Pairwise fun x y => x.toNat < y.toNat := by
  refine List.Pairwise.filter _ (List.pairwise_iff_getElem.mpr fun i j hi hj hij => ?_)
  rw [allSymbols_length] at hi hj
  simp only [allSymbols_getElem, BitVec.toNat_ofNat]
  omega

/-- The weights of the leaves add up to the sum of the frequencies, the missing ones being 0 (R152, R38). -/
theorem leavesOf_weight_sum (s : State) : ((leavesOf s.freq).map fun n => n.w.toNat).sum = freqSum s := by
  have hseen : seenSymbols s = allSymbols.filter fun sym => (freqAt s sym).toNat != 0 :=
    List.filter_congr fun sym _ => by rw [Bool.eq_iff_iff]; simp [← BitVec.toNat_inj]
  rw [leavesOf_freq, freqSum, freq_toList, List.map_map, List.map_map, ← List.sum_filter_bne_zero (allSymbols.map _),
    List.filter_map, hseen]
  rfl

/-! ### The node store and the queue before the loop -/

/-- NODE[i] after a write of NODE[k]; past the last entry nothing is written, and the zero node stands there (log 20). -/
theorem nodeAt_setIfInBounds (a : Arena) (k i : Nat) (n : Node) :
    nodeAt (a.setIfInBounds k n) i = if k = i then if k < 511 then n else Node.zero else nodeAt a i := by
  rw [nodeAt, nodeAt, Vector.getElem?_setIfInBounds]
  split
  · split <;> rfl
  · rfl

/-- Storing nodes from k on leaves the entries below k alone. -/
theorem nodeAt_storeNodes_of_lt (ns : List Node) (a : Arena) {k i : Nat} (hik : i < k) :
    nodeAt (storeNodes a k ns) i = nodeAt a i := by
  induction ns generalizing a k with
  | nil => rfl
  | cons n ns ih =>
    rw [storeNodes, ih _ (by omega), nodeAt_setIfInBounds, if_neg (by omega)]

/-- The nodes stand from k on, in their order. -/
theorem nodeAt_storeNodes (ns : List Node) (a : Arena) {k j : Nat} (hfit : k + ns.length ≤ 511) (hj : j < ns.length) :
    nodeAt (storeNodes a k ns) (k + j) = ns[j] := by
  induction ns generalizing a k j with
  | nil => simp at hj
  | cons n ns ih =>
    rw [List.length_cons] at hfit hj
    rw [storeNodes]
    cases j with
    | zero =>
      rw [nodeAt_storeNodes_of_lt ns _ (by omega), nodeAt_setIfInBounds, if_pos (Nat.add_zero k).symm, if_pos (by omega),
        List.getElem_cons_zero]
    | succ j =>
      rw [show k + (j + 1) = k + 1 + j by omega, ih _ (by omega) (by omega), List.getElem_cons_succ]

theorem keysOf_map_weight (k : Nat) (ns : List Node) :
    ((keysOf k ns).map fun x => x.w.toNat) = ns.map fun n => n.w.toNat := by
  induction ns generalizing k with
  | nil => rfl
  | cons n ns ih => simp [keysOf, ih]

theorem keysOf_map_index (ns : List Node) {k : Nat} (hfit : k + ns.length ≤ 512) :
    ((keysOf k ns).map fun x => x.idx.toNat) = List.range' k ns.length := by
  induction ns generalizing k with
  | nil => rfl
  | cons n ns ih =>
    rw [List.length_cons] at hfit
    rw [keysOf, List.map_cons, ih (by omega), List.length_cons, List.range'_succ, BitVec.toNat_ofNat,
      Nat.mod_eq_of_lt (by omega)]

/-- An entry of the queue is the key of one of the nodes. -/
theorem exists_of_mem_keysOf {ns : List Node} {k : Nat} {x : Key} (hfit : k + ns.length ≤ 512) (hx : x ∈ keysOf k ns) :
    ∃ (j : Nat) (hj : j < ns.length), x.idx.toNat = k + j ∧ x.w = ns[j].w := by
  induction ns generalizing k with
  | nil => simp [keysOf] at hx
  | cons n ns ih =>
    rw [List.length_cons] at hfit
    rcases List.mem_cons.mp hx with rfl | hx
    · exact ⟨0, by simp, by rw [BitVec.toNat_ofNat, Nat.mod_eq_of_lt (by omega), Nat.add_zero], rfl⟩
    · obtain ⟨j, hj, hidx, hw⟩ := ih (by omega) hx
      exact ⟨j + 1, by simpa using hj, by omega, hw⟩

/-! ### BUILD as a step -/

/-- The forest BUILD works out from a state. -/
def builtForest (s : State) : Forest := buildForest s.freq s.env.draws

/-- The whole state after a BUILD over at least one symbol (R150, R160). -/
def built (s : State) : State :=
  { s with
    tree := { node := (builtForest s).node, root := rootOf (builtForest s), count := BitVec.ofNat 9 (builtForest s).k }
    heap := freeHeap s.env.draws
    ct := codeGen (builtForest s).node (rootOf (builtForest s))
    env := { s.env with draws := s.env.draws + 1 }
    slot := none
    cmdDone := true }

@[simp] theorem built_node (s : State) : (built s).tree.node = (builtForest s).node := rfl

theorem leavesOf_eq_nil_iff (s : State) : leavesOf s.freq = [] ↔ ∀ sym, freqAt s sym = 0#32 := by
  simp [leavesOf_freq, List.eq_nil_iff_forall_not_mem, mem_seenSymbols]

theorem leavesOf_ne_nil {s : State} (hseen : ∃ sym, freqAt s sym ≠ 0#32) : leavesOf s.freq ≠ [] := by
  rw [ne_eq, leavesOf_eq_nil_iff, not_forall]
  exact hseen

theorem symbolsSeen_pos {s : State} (hseen : ∃ sym, freqAt s sym ≠ 0#32) : 1 ≤ symbolsSeen s := by
  rw [← leavesOf_freq_length]
  exact List.length_pos_iff.mpr (leavesOf_ne_nil hseen)

theorem symbolsSeen_le (s : State) : symbolsSeen s ≤ 256 := by
  rw [← leavesOf_freq_length]
  exact leavesOf_length_le s.freq

/-- BUILD with ERR = 0 in IDLE over at least one symbol (R150). -/
theorem exec_build {s : State} (herr : s.latch.err = false) (hidle : s.phase = .idle)
    (hseen : ∃ sym, freqAt s sym ≠ 0#32) : exec .build s = .next (built s) := by
  have hallow : allowed Instr.build.mnemonic s.phase = true := by rw [hidle]; rfl
  have hleaves : ¬ (leavesOf s.freq).isEmpty = true := mt List.isEmpty_iff.mp (leavesOf_ne_nil hseen)
  exact exec_done .build s _ herr hallow (if_neg hleaves)

/-- A step of BUILD over at least one symbol leaves `built s`. -/
theorem eq_built {s t : State} (herr : s.latch.err = false) (hidle : s.phase = .idle) (hseen : ∃ sym, freqAt s sym ≠ 0#32)
    (hexec : exec .build s = .next t) : t = built s := by
  rw [exec_build herr hidle hseen] at hexec
  cases hexec
  rfl

/-- Settles O17: with every FREQ[s] = 0 there is no leaf, and BUILD's rule raises EMPTY before it writes anything. -/
theorem buildOfNothingRaisesEmpty : Obligations.BuildOfNothingRaisesEmpty := by
  unfold Obligations.BuildOfNothingRaisesEmpty
  intro s herr hidle hzero
  have hallow : allowed Instr.build.mnemonic s.phase = true := by rw [hidle]; rfl
  have hleaves : (leavesOf s.freq).isEmpty = true :=
    List.isEmpty_iff.mpr ((leavesOf_eq_nil_iff s).mpr hzero)
  exact exec_raise .build s s .empty 0#32 herr hallow (if_pos hleaves)

end Sys2Proof.Machine
end

section
/-! PROOFS. What BUILD's loop keeps of the forest it grows: the leaves, the shape and the weights of the internal nodes, and
that queue and children together name every node once (42_tree R150 to R158). -/

namespace Sys2Proof.Machine

/-! ### One combination -/

theorem nodeAt_combine_of_lt {f : Forest} (a b : Key) (rest : List Key) {i : Nat} (hi : i < f.k) :
    nodeAt (combine f a b rest).node i = nodeAt f.node i := by
  rw [combine, nodeAt_setIfInBounds, if_neg (by omega)]

theorem nodeAt_combine_new {f : Forest} (a b : Key) (rest : List Key) (hk : f.k < 511) :
    nodeAt (combine f a b rest).node f.k = { w := a.w + b.w, leaf := false, sym := 0#8, left := a.idx, right := b.idx } := by
  rw [combine, nodeAt_setIfInBounds, if_pos rfl, if_pos hk]

/-! ### The shape -/

/-- Nodes i and j stand in the order of R153. -/
def KeysAscend (node : Arena) (i j : Nat) : Prop :=
  (nodeAt node i).w.toNat < (nodeAt node j).w.toNat ∨ ((nodeAt node i).w.toNat = (nodeAt node j).w.toNat ∧ i < j)

/-- Two nodes in this order are different. -/
theorem KeysAscend.ne {node : Arena} {i j : NodeIdx} (h : KeysAscend node i.toNat j.toNat) : i ≠ j := by
  rintro rfl
  unfold KeysAscend at h
  omega

/-- NODE[i] is internal, over two earlier nodes of which the left one has the smaller key (R154). -/
structure IsInner (node : Arena) (i : Nat) : Prop where
  leaf : (nodeAt node i).leaf = false
  left : (nodeAt node i).left.toNat < i
  right : (nodeAt node i).right.toNat < i
  ascend : KeysAscend node (nodeAt node i).left.toNat (nodeAt node i).right.toNat

/-- Whether a node is internal depends on the nodes up to it only. -/
theorem IsInner.congr {node node' : Arena} {i : Nat} (h : IsInner node i)
    (hsame : ∀ j, j ≤ i → nodeAt node' j = nodeAt node j) : IsInner node' i := by
  have hi := hsame i (Nat.le_refl i)
  refine ⟨by rw [hi, h.leaf], by rw [hi]; exact h.left, by rw [hi]; exact h.right, ?_⟩
  rw [KeysAscend, hi, hsame _ h.left.le, hsame _ h.right.le]
  exact h.ascend

/-- The node a combination makes is internal (R154). -/
theorem isInner_combine_new {f : Forest} {a b : Key} (rest : List Key) (hk : f.k < 511) (ha : a.idx.toNat < f.k)
    (hb : b.idx.toNat < f.k) (hascend : KeysAscend f.node a.idx.toNat b.idx.toNat) :
    IsInner (combine f a b rest).node f.k := by
  have hnew := nodeAt_combine_new a b rest hk
  refine ⟨by rw [hnew], by rwa [hnew], by rwa [hnew], ?_⟩
  rw [hnew, KeysAscend, nodeAt_combine_of_lt a b rest ha, nodeAt_combine_of_lt a b rest hb]
  exact hascend

/-- The children of NODE[p], left before right. -/
def childrenAt (node : Arena) (p : Nat) : List Nat := [(nodeAt node p).left.toNat, (nodeAt node p).right.toNat]

/-- The children of the internal nodes from n to k - 1. -/
def childrenOf (node : Arena) (n k : Nat) : List Nat := (List.Ico n k).flatMap (childrenAt node)

/-- The forest grown from the leaves `ls` (R152): they stand first, then the internal nodes. Every node is in the queue, with
its weight, or the child of an internal node, and this once. -/
structure GrownFrom (ls : List Node) (f : Forest) : Prop where
  leaves_le : ls.length ≤ f.k
  leaf : ∀ i (hi : i < ls.length), nodeAt f.node i = ls[i]
  inner : ∀ i, ls.length ≤ i → i < f.k → IsInner f.node i
  weight : ∀ x ∈ f.pq, (nodeAt f.node x.idx.toNat).w = x.w
  once : ((f.pq.map fun x => x.idx.toNat) ++ childrenOf f.node ls.length f.k).Perm (List.range f.k)

theorem mem_childrenAt {node : Arena} {p i : Nat} :
    i ∈ childrenAt node p ↔ (nodeAt node p).left.toNat = i ∨ (nodeAt node p).right.toNat = i := by
  simp [childrenAt, eq_comm]

theorem mem_childrenOf {node : Arena} {n k i : Nat} :
    i ∈ childrenOf node n k ↔ ∃ p, n ≤ p ∧ p < k ∧ i ∈ childrenAt node p := by
  simp [childrenOf, and_assoc]

theorem childrenOf_length (node : Arena) (n k : Nat) : (childrenOf node n k).length = 2 * (k - n) := by
  simp [childrenOf, childrenAt, List.length_flatMap, Nat.mul_comm]

theorem childrenOf_combine {f : Forest} (a b : Key) (rest : List Key) {n : Nat} (hn : n ≤ f.k) (hk : f.k < 511) :
    childrenOf (combine f a b rest).node n (f.k + 1) = childrenOf f.node n f.k ++ [a.idx.toNat, b.idx.toNat] := by
  have hold : ∀ p ∈ List.Ico n f.k, childrenAt (combine f a b rest).node p = childrenAt f.node p := fun p hp => by
    rw [childrenAt, nodeAt_combine_of_lt a b rest (List.Ico.mem.mp hp).2, childrenAt]
  have hnew : childrenAt (combine f a b rest).node f.k = [a.idx.toNat, b.idx.toNat] := by
    rw [childrenAt, nodeAt_combine_new a b rest hk]
  rw [childrenOf, List.Ico.succ_top hn, List.flatMap_append, List.flatMap_singleton, hnew, List.flatMap_congr hold, childrenOf]

namespace GrownFrom
variable {ls : List Node} {f : Forest}

/-- Each combination uses one index and shortens the queue by one (R158). -/
theorem size (h : GrownFrom ls f) : f.k + f.pq.length = 2 * ls.length := by
  have hlen := h.once.length_eq
  have hle := h.leaves_le
  rw [List.length_append, List.length_map, childrenOf_length, List.length_range] at hlen
  omega

theorem idx_lt (h : GrownFrom ls f) {x : Key} (hx : x ∈ f.pq) : x.idx.toNat < f.k :=
  List.mem_range.mp (h.once.subset (List.mem_append_left _ (List.mem_map_of_mem hx)))

/-- While two entries are in the queue, the node store has room for their parent (R158). -/
theorem k_lt (h : GrownFrom ls f) (hfit : ls.length ≤ 256) {a b : Key} {rest : List Key}
    (hperm : (a :: b :: rest).Perm f.pq) : f.k < 511 := by
  have hsize := h.size
  rw [← hperm.length_eq, List.length_cons, List.length_cons] at hsize
  omega

end GrownFrom

/-- Before the loop the leaves stand in the store and in the queue, and there is no internal node (R150). -/
theorem grownFrom_leaves (ls : List Node) (a : Arena) (hfit : ls.length ≤ 256) :
    GrownFrom ls { node := storeNodes a 0 ls, k := ls.length, pq := keysOf 0 ls } where
  leaves_le := Nat.le_refl _
  leaf i hi := by simpa using nodeAt_storeNodes ls a (k := 0) (by omega) hi
  inner i hle hlt := absurd hlt (by simpa using hle)
  weight x hx := by
    obtain ⟨j, hj, hidx, hw⟩ := exists_of_mem_keysOf (by omega) hx
    rw [hidx, nodeAt_storeNodes ls a (by omega) hj, hw]
  once := by
    rw [keysOf_map_index ls (by omega), childrenOf, List.Ico.self_empty, List.flatMap_nil, List.append_nil,
      ← List.range_eq_range']

/-- The two keys of a combination are those of two nodes in the order of R153. -/
theorem GrownFrom.keysAscend {ls : List Node} {f : Forest} {a b : Key} {rest : List Key} (h : GrownFrom ls f)
    (hperm : (a :: b :: rest).Perm f.pq) (hab : KeyLe a b) : KeysAscend f.node a.idx.toNat b.idx.toNat := by
  have hnodup := (h.once.nodup_iff.mpr List.nodup_range).of_append_left
  rw [← (hperm.map _).nodup_iff] at hnodup
  have hne : a.idx.toNat ≠ b.idx.toNat := by
    simp only [List.map_cons, List.nodup_cons, List.mem_cons, not_or] at hnodup
    exact hnodup.1.1
  rw [KeysAscend, h.weight a (hperm.subset (by simp)), h.weight b (hperm.subset (by simp))]
  unfold KeyLe at hab
  omega

/-- A combination moves two entries from the queue to the children and puts the new node's entry into the queue (R154). -/
theorem GrownFrom.keeps_combine {ls : List Node} {f : Forest} {a b : Key} {rest : List Key} (h : GrownFrom ls f)
    (hfit : ls.length ≤ 256) (hperm : (a :: b :: rest).Perm f.pq) (hab : KeyLe a b) :
    GrownFrom ls (combine f a b rest) := by
  have hk := h.k_lt hfit hperm
  have ha : a ∈ f.pq := hperm.subset (by simp)
  have hb : b ∈ f.pq := hperm.subset (by simp)
  have hold : ∀ {i}, i < f.k → nodeAt (combine f a b rest).node i = nodeAt f.node i := nodeAt_combine_of_lt a b rest
  have hidx : (BitVec.ofNat 9 f.k).toNat = f.k := by rw [BitVec.toNat_ofNat, Nat.mod_eq_of_lt (by omega)]
  refine ⟨Nat.le_succ_of_le h.leaves_le, fun i hi => ?_, fun i hle hlt => ?_, fun x hx => ?_, ?_⟩
  · rw [hold (Nat.lt_of_lt_of_le hi h.leaves_le), h.leaf i hi]
  · rcases Nat.lt_succ_iff_lt_or_eq.mp hlt with hlt | rfl
    · exact (h.inner i hle hlt).congr fun j hj => hold (Nat.lt_of_le_of_lt hj hlt)
    · exact isInner_combine_new rest hk (h.idx_lt ha) (h.idx_lt hb) (h.keysAscend hperm hab)
  · rcases List.mem_cons.mp hx with rfl | hx
    · rw [hidx, nodeAt_combine_new a b rest hk]
    · have hmem : x ∈ f.pq := hperm.subset (by simp [hx])
      rw [hold (h.idx_lt hmem), h.weight x hmem]
  · have hchildren : childrenOf (combine f a b rest).node ls.length (combine f a b rest).k =
        childrenOf f.node ls.length f.k ++ [a.idx.toNat, b.idx.toNat] := childrenOf_combine a b rest h.leaves_le hk
    have honce := ((hperm.map fun x => x.idx.toNat).append_right _).trans h.once
    rw [hchildren]
    simp only [combine, List.map_cons, hidx, List.cons_append, ← List.append_assoc, List.range_succ]
    refine (List.Perm.cons _ ?_).trans (List.perm_append_singleton _ _).symm
    exact List.perm_append_comm.trans honce

/-! ### The weights -/

/-- The queue weighs as much as the leaves `ls`, and every internal node exactly as much as its children (R152, R157). -/
structure WeighsAs (ls : List Node) (f : Forest) : Prop where
  queue : (f.pq.map fun x => x.w.toNat).sum = (ls.map fun n => n.w.toNat).sum
  exact : ∀ i, ls.length ≤ i → i < f.k →
    (nodeAt f.node i).w.toNat =
      (nodeAt f.node (nodeAt f.node i).left.toNat).w.toNat + (nodeAt f.node (nodeAt f.node i).right.toNat).w.toNat

/-- Before the loop the queue holds the leaves (R150). -/
theorem weighsAs_leaves (ls : List Node) (a : Arena) :
    WeighsAs ls { node := storeNodes a 0 ls, k := ls.length, pq := keysOf 0 ls } where
  queue := congrArg List.sum (keysOf_map_weight 0 ls)
  exact i hle hlt := absurd hlt (by simpa using hle)

/-- A combination keeps the weight of the queue; no sum of two of its weights wraps, as it is at most the weight of the leaves
(R157). -/
theorem WeighsAs.keeps_combine {ls : List Node} {f : Forest} {a b : Key} {rest : List Key} (h : WeighsAs ls f)
    (hgrown : GrownFrom ls f) (hfit : ls.length ≤ 256) (hsum : (ls.map fun n => n.w.toNat).sum < 2 ^ 32)
    (hperm : (a :: b :: rest).Perm f.pq) : WeighsAs ls (combine f a b rest) := by
  have hqueue := h.queue
  rw [← (hperm.map _).sum_eq] at hqueue
  rw [List.map_cons, List.map_cons, List.sum_cons, List.sum_cons] at hqueue
  have hab : (a.w + b.w).toNat = a.w.toNat + b.w.toNat := BitVec.toNat_add_of_lt (by omega)
  refine ⟨?_, fun i hle hlt => ?_⟩
  · simp only [combine, List.map_cons, List.sum_cons, hab]
    omega
  · have ha : a ∈ f.pq := hperm.subset (by simp)
    have hb : b ∈ f.pq := hperm.subset (by simp)
    rcases Nat.lt_succ_iff_lt_or_eq.mp hlt with hlt | rfl
    · obtain ⟨-, hleft, hright, -⟩ := hgrown.inner i hle hlt
      rw [nodeAt_combine_of_lt a b rest hlt, nodeAt_combine_of_lt a b rest (hleft.trans hlt),
        nodeAt_combine_of_lt a b rest (hright.trans hlt), h.exact i hle hlt]
    · rw [nodeAt_combine_new a b rest (hgrown.k_lt hfit hperm), nodeAt_combine_of_lt a b rest (hgrown.idx_lt ha),
        nodeAt_combine_of_lt a b rest (hgrown.idx_lt hb), hgrown.weight a ha, hgrown.weight b hb, hab]

/-! ### After the loop -/

/-- After the loop the forest is grown from the leaves (R152). -/
theorem grownFrom_buildForest (freq : Vector Word 256) (draw : Nat) :
    GrownFrom (leavesOf freq) (buildForest freq draw) := by
  have hfit := leavesOf_length_le freq
  exact mergeAll_keeps (fun f a b rest hperm hab h => h.keeps_combine hfit hperm hab) _ (grownFrom_leaves _ _ hfit)

/-- If the frequencies' sum fits a word, the weights are exact after the loop (R157). -/
theorem weighsAs_buildForest (freq : Vector Word 256) (draw : Nat)
    (hsum : ((leavesOf freq).map fun n => n.w.toNat).sum < 2 ^ 32) :
    WeighsAs (leavesOf freq) (buildForest freq draw) := by
  have hfit := leavesOf_length_le freq
  refine (mergeAll_keeps (P := fun f => GrownFrom (leavesOf freq) f ∧ WeighsAs (leavesOf freq) f) ?_ _
    ⟨grownFrom_leaves _ _ hfit, weighsAs_leaves _ _⟩).2
  rintro f a b rest hperm hab ⟨hgrown, hweighs⟩
  exact ⟨hgrown.keeps_combine hfit hperm hab, hweighs.keeps_combine hgrown hfit hsum hperm⟩

end Sys2Proof.Machine
end

section
/-! PROOFS. The tree BUILD leaves: NODECNT and ROOT, the leaves in symbol order, the weighted tree over them, and that all of it
and the code table depend on FREQ only (42_tree R150 to R161). -/

namespace Sys2Proof.Machine

/-! ### The forest with one entry left -/

namespace GrownFrom
variable {ls : List Node} {f : Forest} {r : Key}

/-- The last node is the entry left: it is no node's child, since children come before their parent (R155, R158). -/
theorem root_last (h : GrownFrom ls f) (hr : f.pq = [r]) : r.idx.toNat + 1 = f.k := by
  have hlt : r.idx.toNat < f.k := h.idx_lt (by simp [hr])
  have hlast : f.k - 1 ∈ (f.pq.map fun x => x.idx.toNat) ++ childrenOf f.node ls.length f.k :=
    h.once.mem_iff.mpr (List.mem_range.mpr (by omega))
  rw [hr, List.map_singleton, List.singleton_append, List.mem_cons, mem_childrenOf] at hlast
  rcases hlast with heq | ⟨p, hle, hp, hchild⟩
  · omega
  · have hinner := h.inner p hle hp
    have hleft := hinner.left
    have hright := hinner.right
    rw [mem_childrenAt] at hchild
    omega

/-- Every node but the entry left is the child of some internal node (R152). -/
theorem exists_parent (h : GrownFrom ls f) (hr : f.pq = [r]) {i : Nat} (hi : i < f.k) (hne : i ≠ r.idx.toNat) :
    i ∈ childrenOf f.node ls.length f.k := by
  have hmem := h.once.mem_iff.mpr (List.mem_range.mpr hi)
  rw [hr, List.map_singleton, List.singleton_append, List.mem_cons] at hmem
  exact hmem.resolve_left hne

/-- No node is the child of two internal nodes (R152). -/
theorem parent_unique (h : GrownFrom ls f) {p q i : Nat} (hp : p ∈ List.Ico ls.length f.k)
    (hq : q ∈ List.Ico ls.length f.k) (hpi : i ∈ childrenAt f.node p) (hqi : i ∈ childrenAt f.node q) : q = p := by
  have hnodup := (h.once.nodup_iff.mpr List.nodup_range).of_append_right
  have hsymm : Std.Symm (Function.onFun List.Disjoint (childrenAt f.node)) := ⟨fun _ _ hd => hd.symm⟩
  by_contra hne
  exact (List.nodup_flatMap.mp hnodup).2.forall hq hp hne hqi hpi

end GrownFrom

/-! ### ROOT and NODECNT -/

theorem grownFrom_builtForest (s : State) : GrownFrom (leavesOf s.freq) (builtForest s) := grownFrom_buildForest _ _

theorem builtForest_k {s : State} (hseen : ∃ sym, freqAt s sym ≠ 0#32) : (builtForest s).k = 2 * symbolsSeen s - 1 := by
  rw [builtForest, buildForest_k _ _ (leavesOf_ne_nil hseen), leavesOf_freq_length]

theorem built_count {s : State} (hseen : ∃ sym, freqAt s sym ≠ 0#32) : (built s).tree.count.toNat = (builtForest s).k := by
  have hle := symbolsSeen_le s
  simp only [built, builtForest_k hseen, BitVec.toNat_ofNat]
  omega

/-- One entry is left in the queue, and ROOT is its node (R150). -/
theorem exists_root {s : State} (hseen : ∃ sym, freqAt s sym ≠ 0#32) :
    ∃ r, (builtForest s).pq = [r] ∧ (built s).tree.root = r.idx := by
  have hsize := (grownFrom_builtForest s).size
  have hpos := symbolsSeen_pos hseen
  rw [builtForest_k hseen, leavesOf_freq_length] at hsize
  obtain ⟨r, hr⟩ := List.length_eq_one_iff.mp (show (builtForest s).pq.length = 1 by omega)
  exact ⟨r, hr, by rw [built, rootOf, hr]⟩

/-- Settles O18: NODECNT is `builtForest_k`, ROOT the last node, and the next state is `built s`. -/
theorem buildCompletes : Obligations.BuildCompletes := by
  unfold Obligations.BuildCompletes
  intro s herr hidle hseen
  obtain ⟨r, hr, hroot⟩ := exists_root hseen
  have hcount := builtForest_k hseen
  have hlast := (grownFrom_builtForest s).root_last hr
  refine ⟨built s, exec_build herr hidle hseen, symbolsSeen_pos hseen, symbolsSeen_le s, ?_, ?_, rfl⟩
  · rw [built_count hseen, hcount]
  · rw [hroot]
    omega

/-! ### The leaves -/

theorem nodeAt_built_leaf (s : State) {i : Nat} (hi : i < (seenSymbols s).length) :
    nodeAt (built s).tree.node i = leafNode s (seenSymbols s)[i] := by
  have hleaf := (grownFrom_builtForest s).leaf i (by simpa using hi)
  simpa only [built_node, leavesOf_freq, List.getElem_map] using hleaf

theorem built_leaf_iff (s : State) {i : Nat} (hi : i < (builtForest s).k) :
    (nodeAt (built s).tree.node i).leaf = false ↔ symbolsSeen s ≤ i := by
  refine ⟨fun hleaf => ?_, fun hle => ?_⟩
  · by_contra hlt
    rw [nodeAt_built_leaf s (Nat.lt_of_not_le hlt)] at hleaf
    cases hleaf
  · exact ((grownFrom_builtForest s).inner i (by simpa using hle) hi).leaf

/-- Settles O20: the i-th node is the leaf of the i-th symbol seen, and the symbols seen ascend. -/
theorem leavesInSymbolOrder : Obligations.LeavesInSymbolOrder := by
  unfold Obligations.LeavesInSymbolOrder
  intro s t herr hidle hseen hexec
  obtain rfl := eq_built herr hidle hseen hexec
  refine ⟨fun i hi => ?_, fun i j hij hj => ?_, fun sym hsym => ?_, fun i hle hlt => ?_⟩
  · rw [nodeAt_built_leaf s hi]
    exact ⟨rfl, rfl, (mem_seenSymbols s _).mp (List.getElem_mem _)⟩
  · rw [nodeAt_built_leaf s (hij.trans hj), nodeAt_built_leaf s hj]
    exact List.pairwise_iff_getElem.mp (seenSymbols_ascend s) i j _ _ hij
  · obtain ⟨i, hi, hget⟩ := List.getElem_of_mem ((mem_seenSymbols s sym).mpr hsym)
    exact ⟨i, hi, by rw [nodeAt_built_leaf s hi, hget]; rfl⟩
  · rw [built_count hseen] at hlt
    exact (built_leaf_iff s hlt).mpr hle

/-! ### The weighted tree -/

theorem weighsAs_builtForest {s : State} (htotal : TotalInv s) : WeighsAs (leavesOf s.freq) (builtForest s) :=
  weighsAs_buildForest _ _ (by rw [leavesOf_weight_sum, ← htotal]; exact s.total.isLt)

/-- Settles O21: `IsInner` and `WeighsAs` give the internal nodes, `GrownFrom.once` the single parents, and the queue's weight
is that of the root. -/
theorem buildMakesWeightedTree : Obligations.BuildMakesWeightedTree := by
  unfold Obligations.BuildMakesWeightedTree
  intro s t htotal herr hidle hseen hexec
  obtain rfl := eq_built herr hidle hseen hexec
  obtain ⟨r, hr, hroot⟩ := exists_root hseen
  have hgrown := grownFrom_builtForest s
  have hweighs := weighsAs_builtForest htotal
  rw [built_count hseen, hroot]
  have hinner : ∀ {i}, i < (builtForest s).k → (nodeAt (built s).tree.node i).leaf = false →
      (leavesOf s.freq).length ≤ i := fun hlt hleaf => by rw [leavesOf_freq_length]; exact (built_leaf_iff s hlt).mp hleaf
  refine ⟨fun i hlt hleaf => ?_, fun i hlt hne => ?_, ?_⟩
  · have hle := hinner hlt hleaf
    obtain ⟨-, hleft, hright, hascend⟩ := hgrown.inner i hle hlt
    exact ⟨hascend.ne, hleft, hright, hweighs.exact i hle hlt, hascend⟩
  · obtain ⟨p, hle, hp, hchild⟩ := mem_childrenOf.mp (hgrown.exists_parent hr hlt hne)
    refine ⟨p, ⟨hp, (hgrown.inner p hle hp).leaf, mem_childrenAt.mp hchild⟩, fun q hq hleaf hqchild => ?_⟩
    exact hgrown.parent_unique (List.Ico.mem.mpr ⟨hle, hp⟩) (List.Ico.mem.mpr ⟨hinner hq hleaf, hq⟩) hchild
      (mem_childrenAt.mpr hqchild)
  · have hsum := hweighs.queue
    rw [leavesOf_weight_sum, ← htotal, hr, List.map_singleton, List.sum_singleton] at hsum
    rw [← BitVec.toNat_inj, ← hsum, ← hgrown.weight r (by simp [hr])]
    rfl

/-! ### Independence from everything but FREQ -/

/-- Two forests with the same queue and the same nodes below the same k. -/
structure SameBelow (f g : Forest) : Prop where
  k : f.k = g.k
  pq : f.pq = g.pq
  node : ∀ i, i < f.k → nodeAt f.node i = nodeAt g.node i

theorem SameBelow.keeps_combine {f g : Forest} (h : SameBelow f g) (a b : Key) (rest : List Key) :
    SameBelow (combine f a b rest) (combine g a b rest) := by
  refine ⟨congrArg (· + 1) h.k, by simp only [combine, h.k], fun i hi => ?_⟩
  simp only [combine, nodeAt_setIfInBounds, ← h.k]
  split
  · rfl
  · exact h.node i (by simp only [combine] at hi; omega)

theorem SameBelow.keeps_mergeAll (fuel : Nat) {f g : Forest} (h : SameBelow f g) :
    SameBelow (mergeAll fuel f) (mergeAll fuel g) := by
  induction fuel generalizing f g with
  | zero => exact h
  | succ fuel ih =>
    rw [mergeAll, mergeAll, ← h.pq]
    cases extractMin f.pq with
    | none => exact h
    | some first =>
      dsimp only
      cases extractMin first.2 with
      | none => exact h
      | some second => exact ih (h.keeps_combine first.1 second.1 second.2)

/-- Two BUILDs over the same FREQ work out the same forest, whatever the free values (R161). -/
theorem sameBelow_buildForest (freq : Vector Word 256) (draw draw' : Nat) :
    SameBelow (buildForest freq draw) (buildForest freq draw') := by
  have hfit := leavesOf_length_le freq
  refine SameBelow.keeps_mergeAll _ ⟨rfl, rfl, fun i hi => ?_⟩
  rw [(grownFrom_leaves _ (freeArena draw) hfit).leaf i hi, (grownFrom_leaves _ (freeArena draw') hfit).leaf i hi]

/-- The walk reads the nodes below k only, if every internal one has its children there. -/
theorem walk_congr {a b : Arena} {k : Nat} (hsame : ∀ i, i < k → nodeAt a i = nodeAt b i)
    (hchild : ∀ i, i < k → (nodeAt a i).leaf = false → (nodeAt a i).left.toNat < k ∧ (nodeAt a i).right.toNat < k)
    (fuel : Nat) {i : NodeIdx} (hi : i.toNat < k) (p : Bits) (ct : CodeTable) : walk a fuel i p ct = walk b fuel i p ct := by
  induction fuel generalizing i p ct with
  | zero => rfl
  | succ fuel ih =>
    simp only [walk, ← hsame _ hi]
    split
    · rfl
    next hleaf =>
      obtain ⟨hleft, hright⟩ := hchild _ hi (by simpa using hleaf)
      rw [ih hleft, ih hright]

theorem codeGen_congr {a b : Arena} {k : Nat} (hsame : ∀ i, i < k → nodeAt a i = nodeAt b i)
    (hchild : ∀ i, i < k → (nodeAt a i).leaf = false → (nodeAt a i).left.toNat < k ∧ (nodeAt a i).right.toNat < k)
    {r : NodeIdx} (hr : r.toNat < k) : codeGen a r = codeGen b r := by
  simp only [codeGen, ← hsame _ hr, walk_congr hsame hchild 256 hr]

/-- The children of an internal node below NODECNT are below NODECNT (R152). -/
theorem built_children_lt (s : State) {i : Nat} (hi : i < (builtForest s).k)
    (hleaf : (nodeAt (builtForest s).node i).leaf = false) :
    (nodeAt (builtForest s).node i).left.toNat < (builtForest s).k ∧
      (nodeAt (builtForest s).node i).right.toNat < (builtForest s).k := by
  have hle := (built_leaf_iff s hi).mp hleaf
  have hinner := (grownFrom_builtForest s).inner i (by simpa using hle) hi
  exact ⟨hinner.left.trans hi, hinner.right.trans hi⟩

/-- Settles O22: the two forests are the same below NODECNT (`sameBelow_buildForest`), and CodeGen reads nothing else. -/
theorem buildDependsOnFreqOnly : Obligations.BuildDependsOnFreqOnly := by
  unfold Obligations.BuildDependsOnFreqOnly
  intro s1 s2 t1 t2 hfreq hseen herr1 herr2 hidle1 hidle2 hexec1 hexec2
  have hseen2 : ∃ sym, freqAt s2 sym ≠ 0#32 := by simpa only [freqAt, hfreq] using hseen
  obtain rfl := eq_built herr1 hidle1 hseen hexec1
  obtain rfl := eq_built herr2 hidle2 hseen2 hexec2
  have hsame : SameBelow (builtForest s1) (builtForest s2) := by
    rw [builtForest, builtForest, hfreq]
    exact sameBelow_buildForest _ _ _
  obtain ⟨r, hr, hroot⟩ := exists_root hseen
  have hlast := (grownFrom_builtForest s1).root_last hr
  have hroots : rootOf (builtForest s1) = rootOf (builtForest s2) := by rw [rootOf, rootOf, hsame.pq]
  have hcode : (built s1).ct = (built s2).ct := by
    have hlt : (rootOf (builtForest s1)).toNat < (builtForest s1).k := by rw [rootOf, hr]; dsimp only; omega
    rw [built, built, ← hroots]
    exact codeGen_congr hsame.node (fun i => built_children_lt s1) hlt
  refine ⟨hroots, congrArg (BitVec.ofNat 9) hsame.k, hcode, fun i hi => hsame.node i ?_⟩
  rwa [built_count hseen] at hi

end Sys2Proof.Machine
end

section
/-! PROOFS. Paths from a node down to a leaf, and the code table CodeGen's walk writes from them (43_code_table R170 to R172). -/

namespace Sys2Proof.Machine

/-! ### Paths -/

/-- The child of NODE[i] on a bit: the left one on 0, the right one on 1 (R170). -/
def childOn (node : Arena) (i : Nat) (bit : Bool) : Nat :=
  if bit then (nodeAt node i).right.toNat else (nodeAt node i).left.toNat

theorem mem_childrenAt_iff_childOn {node : Arena} {p i : Nat} :
    i ∈ childrenAt node p ↔ ∃ bit, childOn node p bit = i := by
  rw [mem_childrenAt, Bool.exists_bool]
  rfl

/-- The bits lead from node i to node j, through internal nodes (R170). -/
def Reaches (node : Arena) (i : Nat) : Bits → Nat → Prop
  | [], j => i = j
  | bit :: p, j => (nodeAt node i).leaf = false ∧ Reaches node (childOn node i bit) p j

@[simp] theorem reaches_nil {node : Arena} {i j : Nat} : Reaches node i [] j ↔ i = j := Iff.rfl

@[simp] theorem reaches_cons {node : Arena} {i j : Nat} {bit : Bool} {p : Bits} :
    Reaches node i (bit :: p) j ↔ (nodeAt node i).leaf = false ∧ Reaches node (childOn node i bit) p j := Iff.rfl

/-- The last bit of a path leads from the parent of its end. -/
theorem reaches_concat {node : Arena} {i j : Nat} {bit : Bool} {p : Bits} :
    Reaches node i (p ++ [bit]) j ↔ ∃ m, Reaches node i p m ∧ (nodeAt node m).leaf = false ∧ childOn node m bit = j := by
  induction p generalizing i with
  | nil => simp
  | cons b p ih => simp [ih, and_assoc]

/-- Following the bits of a path ends where it leads. -/
theorem Reaches.foldl_childOn {node : Arena} {i j : Nat} {p : Bits} (h : Reaches node i p j) :
    p.foldl (childOn node) i = j := by
  induction p generalizing i with
  | nil => exact h
  | cons bit p ih => exact ih h.2

/-- No path leads on from a leaf. -/
theorem Reaches.of_leaf {node : Arena} {i j : Nat} {p : Bits} (h : Reaches node i p j) (hleaf : (nodeAt node i).leaf = true) :
    p = [] ∧ i = j := by
  cases p with
  | nil => exact ⟨rfl, h⟩
  | cons bit p => exact absurd (hleaf.symm.trans h.1) (by decide)

/-- A path to a leaf goes on nowhere: any path it begins ends at the same leaf (R173 (c)). -/
theorem Reaches.eq_of_prefix {node : Arena} {i j m : Nat} {p q : Bits} (hp : Reaches node i p j) (hq : Reaches node i q m)
    (hleaf : (nodeAt node j).leaf = true) (hprefix : p <+: q) : j = m := by
  induction p generalizing i q with
  | nil =>
    obtain rfl := reaches_nil.mp hp
    exact (hq.of_leaf hleaf).2
  | cons bit p ih =>
    obtain ⟨q, rfl, hprefix⟩ := List.cons_prefix_iff.mp hprefix
    exact ih hp.2 hq.2 ((List.prefix_cons_inj bit).mp hprefix)

/-! ### The entries -/

/-- The entry that stores a bit string (R10, R170). -/
def codeEntry (p : Bits) : CtEntry := { len := BitVec.ofNat 8 p.length, code := BitVec.ofNat 256 (num p) }

theorem codeEntry_len {p : Bits} (hp : p.length ≤ 255) : (codeEntry p).len.toNat = p.length := by
  rw [codeEntry, BitVec.toNat_ofNat, Nat.mod_eq_of_lt (by omega)]

theorem codeEntry_code {p : Bits} (hp : p.length ≤ 255) : (codeEntry p).code.toNat = num p := by
  have hlt : num p < 2 ^ 256 := (num_lt p).trans_le (Nat.pow_le_pow_right (by decide) (by omega))
  rw [codeEntry, BitVec.toNat_ofNat, Nat.mod_eq_of_lt hlt]

/-- The entry of a string of at most MAXLEN_HW bits reads back as the string. -/
theorem codeOf_codeEntry {p : Bits} (hp : p.length ≤ 255) : codeOf (codeEntry p) = p := by
  rw [codeOf, codeEntry_len hp, codeEntry_code hp, bitsOf_num]

theorem codeEntry_len_ne_zero {p : Bits} (hp : p.length ≤ 255) (hne : p ≠ []) : (codeEntry p).len ≠ 0#8 := by
  intro hzero
  have hlen := codeEntry_len hp
  rw [hzero] at hlen
  exact hne (List.length_eq_zero_iff.mp hlen.symm)

theorem ctAt_writeCode_same (sym : Byte) (p : Bits) (ct : CodeTable) : ctAt (writeCode sym p ct) sym = codeEntry p :=
  ctAt_ctSet_same ct sym _

theorem ctAt_writeCode_ne {sym u : Byte} (p : Bits) (ct : CodeTable) (h : u ≠ sym) :
    ctAt (writeCode sym p ct) u = ctAt ct u := ctAt_ctSet_ne ct sym u _ h

/-! ### The walk -/

/-- Some leaf of the symbol is below node i, on a path that `e` stores behind the bits `p`. -/
def CodedBelow (node : Arena) (i : Nat) (p : Bits) (sym : Byte) (e : CtEntry) : Prop :=
  ∃ q j, Reaches node i q j ∧ (nodeAt node j).leaf = true ∧ (nodeAt node j).sym = sym ∧ e = codeEntry (p ++ q)

/-- No leaf of the symbol is below node i. -/
def NoLeafBelow (node : Arena) (i : Nat) (sym : Byte) : Prop :=
  ∀ q j, Reaches node i q j → (nodeAt node j).leaf = true → (nodeAt node j).sym ≠ sym

theorem CodedBelow.of_child {node : Arena} {i : Nat} {bit : Bool} {p : Bits} {sym : Byte} {e : CtEntry}
    (hinner : (nodeAt node i).leaf = false) (h : CodedBelow node (childOn node i bit) (p ++ [bit]) sym e) :
    CodedBelow node i p sym e := by
  obtain ⟨q, j, hreach, hleaf, hsym, rfl⟩ := h
  exact ⟨bit :: q, j, ⟨hinner, hreach⟩, hleaf, hsym, by rw [List.append_assoc, List.singleton_append]⟩

theorem NoLeafBelow.of_children {node : Arena} {i : Nat} {sym : Byte} (hinner : (nodeAt node i).leaf = false)
    (h : ∀ bit, NoLeafBelow node (childOn node i bit) sym) : NoLeafBelow node i sym := by
  intro q j hreach hleaf
  cases q with
  | nil =>
    obtain rfl := reaches_nil.mp hreach
    exact absurd (hleaf.symm.trans hinner) (by decide)
  | cons bit q => exact h bit q j hreach.2 hleaf

/-- What the walk from node i makes of a symbol's entry (R170): the code of a leaf of it below i, or what it was if there is no
such leaf. `hfuel`: no path is as long as the fuel. -/
theorem walk_cases {node : Arena} {fuel : Nat} {i : NodeIdx} (p : Bits) (ct : CodeTable) (sym : Byte)
    (hfuel : ∀ q j, Reaches node i.toNat q j → q.length < fuel) :
    CodedBelow node i.toNat p sym (ctAt (walk node fuel i p ct) sym) ∨
      (NoLeafBelow node i.toNat sym ∧ ctAt (walk node fuel i p ct) sym = ctAt ct sym) := by
  induction fuel generalizing i p ct with
  | zero => exact absurd (hfuel [] i.toNat rfl) (by simp)
  | succ fuel ih =>
    rw [walk]
    split
    next hleaf =>
      by_cases hsym : (nodeAt node i.toNat).sym = sym
      · exact .inl ⟨[], i.toNat, rfl, hleaf, hsym, by rw [hsym, ctAt_writeCode_same, List.append_nil]⟩
      · refine .inr ⟨fun q j hreach _ => ?_, ctAt_writeCode_ne p ct (Ne.symm hsym)⟩
        obtain ⟨-, rfl⟩ := hreach.of_leaf hleaf
        exact hsym
    next hleaf =>
      have hinner : (nodeAt node i.toNat).leaf = false := by simpa using hleaf
      have hfuel' (bit : Bool) : ∀ q j, Reaches node (childOn node i.toNat bit) q j → q.length < fuel := fun q j hreach =>
        Nat.lt_of_succ_lt_succ (hfuel (bit :: q) j ⟨hinner, hreach⟩)
      rcases ih (i := (nodeAt node i.toNat).right) (p ++ [true]) (walk node fuel (nodeAt node i.toNat).left (p ++ [false]) ct)
        (hfuel' true) with hright | ⟨hright, hkeep⟩
      · exact .inl (.of_child (bit := true) hinner hright)
      rw [hkeep]
      rcases ih (i := (nodeAt node i.toNat).left) (p ++ [false]) ct (hfuel' false) with hleft | ⟨hleft, hkeep'⟩
      · exact .inl (.of_child (bit := false) hinner hleft)
      · exact .inr ⟨.of_children hinner (Bool.forall_bool.mpr ⟨hleft, hright⟩), hkeep'⟩

end Sys2Proof.Machine
end

section
/-! PROOFS. The paths in the tree BUILD leaves: from ROOT one path leads to every node, at most n - 1 bits long, and every bit
string meets a path to a leaf (42_tree_builder R152, 43_code_table R173). -/

namespace Sys2Proof.Machine

section
variable {s : State}

theorem built_childOn_lt {i : Nat} (hi : i < (builtForest s).k) (hinner : (nodeAt (builtForest s).node i).leaf = false)
    (bit : Bool) : childOn (builtForest s).node i bit < i := by
  have hle := (built_leaf_iff s hi).mp hinner
  obtain ⟨-, hleft, hright, -⟩ := (grownFrom_builtForest s).inner i (by simpa using hle) hi
  cases bit
  · exact hleft
  · exact hright

/-- The two children of an internal node are different (R152). -/
theorem built_childOn_injective {i : Nat} (hi : i < (builtForest s).k)
    (hinner : (nodeAt (builtForest s).node i).leaf = false) : Function.Injective (childOn (builtForest s).node i) := by
  have hle := (built_leaf_iff s hi).mp hinner
  have hne := mt BitVec.eq_of_toNat_eq ((grownFrom_builtForest s).inner i (by simpa using hle) hi).ascend.ne
  exact Bool.injective_iff.mpr hne

/-- Each bit of a path goes to a smaller index, and through an internal node, of which there are n - 1 (R158). -/
theorem Reaches.bound {i j : Nat} {p : Bits} (h : Reaches (builtForest s).node i p j) (hi : i < (builtForest s).k) :
    j ≤ i ∧ p.length ≤ i + 1 - symbolsSeen s := by
  induction p generalizing i with
  | nil => exact ⟨(reaches_nil.mp h).ge, Nat.zero_le _⟩
  | cons bit p ih =>
    have hlt := built_childOn_lt hi h.1 bit
    have hle := (built_leaf_iff s hi).mp h.1
    obtain ⟨hj, hlen⟩ := ih h.2 (hlt.trans hi)
    rw [List.length_cons]
    omega

/-- Every bit string meets a path to a leaf: one of the two begins the other. -/
theorem exists_leaf_along {i : Nat} (hi : i < (builtForest s).k) (p : Bits) :
    ∃ q j, Reaches (builtForest s).node i q j ∧ (nodeAt (builtForest s).node j).leaf = true ∧ (q <+: p ∨ p <+: q) := by
  induction i using Nat.strong_induction_on generalizing p with
  | _ i ih =>
    cases hleaf : (nodeAt (builtForest s).node i).leaf with
    | true => exact ⟨[], i, rfl, hleaf, .inl List.nil_prefix⟩
    | false =>
      have hlt := built_childOn_lt hi hleaf
      cases p with
      | nil =>
        obtain ⟨q, j, hreach, hend, -⟩ := ih _ (hlt false) ((hlt false).trans hi) []
        exact ⟨false :: q, j, ⟨hleaf, hreach⟩, hend, .inr List.nil_prefix⟩
      | cons bit p =>
        obtain ⟨q, j, hreach, hend, hmeet⟩ := ih _ (hlt bit) ((hlt bit).trans hi) p
        exact ⟨bit :: q, j, ⟨hleaf, hreach⟩, hend, hmeet.imp (List.prefix_cons_inj bit).mpr (List.prefix_cons_inj bit).mpr⟩

/-- Two parents of one node are the same, and on the same bit (R152). -/
theorem parent_bit_unique {m m' : Nat} {bit bit' : Bool} (hm : m < (builtForest s).k) (hm' : m' < (builtForest s).k)
    (hinner : (nodeAt (builtForest s).node m).leaf = false) (hinner' : (nodeAt (builtForest s).node m').leaf = false)
    (hchild : childOn (builtForest s).node m bit = childOn (builtForest s).node m' bit') : m = m' ∧ bit = bit' := by
  have hico {q : Nat} (hq : q < (builtForest s).k) (h : (nodeAt (builtForest s).node q).leaf = false) :
      q ∈ List.Ico (leavesOf s.freq).length (builtForest s).k :=
    List.Ico.mem.mpr ⟨by simpa using (built_leaf_iff s hq).mp h, hq⟩
  obtain rfl : m = m' := (grownFrom_builtForest s).parent_unique (hico hm' hinner') (hico hm hinner)
    (mem_childrenAt_iff_childOn.mpr ⟨bit', rfl⟩) (mem_childrenAt_iff_childOn.mpr ⟨bit, hchild⟩)
  exact ⟨rfl, built_childOn_injective hm hinner hchild⟩

end

section
variable {s : State} (hseen : ∃ sym, freqAt s sym ≠ 0#32)
include hseen

/-- ROOT is the last node (R155). -/
theorem built_root : (built s).tree.root.toNat + 1 = (builtForest s).k := by
  obtain ⟨r, hr, hroot⟩ := exists_root hseen
  rw [hroot]
  exact (grownFrom_builtForest s).root_last hr

/-- A node other than ROOT is a child of an internal node (R152). -/
theorem exists_parent_of_ne_root {i : Nat} (hi : i < (builtForest s).k) (hne : i ≠ (built s).tree.root.toNat) :
    ∃ m bit, m < (builtForest s).k ∧ (nodeAt (builtForest s).node m).leaf = false ∧ childOn (builtForest s).node m bit = i := by
  obtain ⟨r, hr, hroot⟩ := exists_root hseen
  rw [hroot] at hne
  obtain ⟨m, hle, hm, hchild⟩ := mem_childrenOf.mp ((grownFrom_builtForest s).exists_parent hr hi hne)
  obtain ⟨bit, hbit⟩ := mem_childrenAt_iff_childOn.mp hchild
  exact ⟨m, bit, hm, ((grownFrom_builtForest s).inner m hle hm).leaf, hbit⟩

/-- A path leads from ROOT to every node. -/
theorem exists_path {i : Nat} (hi : i < (builtForest s).k) :
    ∃ p, Reaches (builtForest s).node (built s).tree.root.toNat p i := by
  by_cases hroot : i = (built s).tree.root.toNat
  · exact ⟨[], hroot.symm⟩
  · obtain ⟨m, bit, hm, hinner, hbit⟩ := exists_parent_of_ne_root hseen hi hroot
    have hlt := built_childOn_lt hm hinner bit
    obtain ⟨p, hp⟩ := exists_path hm
    exact ⟨p ++ [bit], reaches_concat.mpr ⟨m, hp, hinner, hbit⟩⟩
termination_by (builtForest s).k - i

/-- A path from ROOT is at most n - 1 bits long and ends below NODECNT (R173 (b)). -/
theorem path_bound {p : Bits} {i : Nat} (hp : Reaches (builtForest s).node (built s).tree.root.toNat p i) :
    i < (builtForest s).k ∧ p.length ≤ symbolsSeen s - 1 := by
  have hroot := built_root hseen
  have hk := builtForest_k hseen
  obtain ⟨hle, hlen⟩ := hp.bound (by omega)
  omega

/-- Only the empty path leads from ROOT to ROOT, as every other one goes to smaller indices. -/
theorem path_to_root {p : Bits} (hp : Reaches (builtForest s).node (built s).tree.root.toNat p (built s).tree.root.toNat) :
    p = [] := by
  have hroot := built_root hseen
  cases p with
  | nil => rfl
  | cons bit p =>
    have hlt := built_childOn_lt (by omega) hp.1 bit
    have hle := (hp.2.bound (by omega)).1
    omega

/-- One path only leads from ROOT to a node (R152). -/
theorem path_unique {p q : Bits} {i : Nat} (hp : Reaches (builtForest s).node (built s).tree.root.toNat p i)
    (hq : Reaches (builtForest s).node (built s).tree.root.toNat q i) : p = q := by
  induction p using List.reverseRecOn generalizing q i with
  | nil =>
    obtain rfl := reaches_nil.mp hp
    exact (path_to_root hseen hq).symm
  | append_singleton p bit ih =>
    rcases List.eq_nil_or_concat' q with rfl | ⟨q, bit', rfl⟩
    · obtain rfl := reaches_nil.mp hq
      exact path_to_root hseen hp
    · obtain ⟨m, hpm, hinner, hchild⟩ := reaches_concat.mp hp
      obtain ⟨m', hqm, hinner', hchild'⟩ := reaches_concat.mp hq
      obtain ⟨rfl, rfl⟩ := parent_bit_unique (path_bound hseen hpm).1 (path_bound hseen hqm).1 hinner hinner'
        (hchild.trans hchild'.symm)
      rw [ih hpm hqm]

end

end Sys2Proof.Machine
end

section
/-! PROOFS. The code table: CTCLR, and the table BUILD leaves, symbol by symbol, a complete code of paths of
which none begins another (43_code_table R170 to R175, 45_decoder R211). -/

namespace Sys2Proof.Machine

/-! ### CTCLR -/

/-- Settles O28: CTCLR's rule ends with the empty table, and Complete keeps it. -/
theorem ctclrClears : Obligations.CtclrClears := by
  unfold Obligations.CtclrClears
  intro s herr hidle
  have hallow : allowed Instr.ctclr.mnemonic s.phase = true := by rw [hidle]; rfl
  exact ⟨_, exec_done .ctclr s _ herr hallow rfl, ctAt_emptyTable,
    congrArg (fun cs => BitVec.ofNat 32 (List.length cs)) present_emptyTable,
    congrArg (BitVec.ofNat 32) longestCode_emptyTable, rfl⟩

/-! ### One symbol -/

theorem seenSymbols_nodup (s : State) : (seenSymbols s).Nodup :=
  (seenSymbols_ascend s).imp fun hlt heq => absurd (congrArg BitVec.toNat heq) (Nat.ne_of_lt hlt)

/-- The table of a single symbol (R171). -/
theorem built_ct_single {s : State} {sym : Byte} (hsingle : seenSymbols s = [sym]) :
    (built s).ct = writeCode sym [false] emptyTable := by
  have hseen : ∃ u, freqAt s u ≠ 0#32 := ⟨sym, (mem_seenSymbols s sym).mp (by simp [hsingle])⟩
  have hn : symbolsSeen s = 1 := congrArg List.length hsingle
  have hroot : (rootOf (builtForest s)).toNat = 0 := by
    have hlast : (rootOf (builtForest s)).toNat + 1 = (builtForest s).k := built_root hseen
    have hk := builtForest_k hseen
    omega
  have hnode : nodeAt (builtForest s).node 0 = leafNode s sym := by
    have hleaf := nodeAt_built_leaf s (i := 0) (by simp [hsingle])
    simpa [hsingle] using hleaf
  have hct : (built s).ct = codeGen (builtForest s).node (rootOf (builtForest s)) := rfl
  rw [hct, codeGen, hroot, hnode]
  rfl

/-- Settles O23: the only leaf is ROOT, so `built_ct_single` gives the table. -/
theorem singleSymbolGetsZero : Obligations.SingleSymbolGetsZero := by
  unfold Obligations.SingleSymbolGetsZero
  intro s sym herr hidle hsym hothers
  have hseen : ∃ u, freqAt s u ≠ 0#32 := ⟨sym, hsym⟩
  have hmem (u : Byte) : u ∈ seenSymbols s ↔ u ∈ [sym] := by
    rw [mem_seenSymbols, List.mem_singleton]
    exact ⟨not_imp_comm.mp (hothers u), fun h => h ▸ hsym⟩
  have hsingle : seenSymbols s = [sym] :=
    List.perm_singleton.mp ((List.perm_ext_iff_of_nodup (seenSymbols_nodup s) (List.nodup_singleton sym)).mpr hmem)
  have hk : (builtForest s).k = 1 := by
    rw [builtForest_k hseen, ← seenSymbols_length, hsingle, List.length_singleton]
  have hroot := built_root hseen
  rw [hk] at hroot
  have hentry : ctAt (built s).ct sym = codeEntry [false] := by rw [built_ct_single hsingle, ctAt_writeCode_same]
  refine ⟨built s, exec_build herr hidle hseen, BitVec.eq_of_toNat_eq (Nat.succ.inj hroot), congrArg (BitVec.ofNat 9) hk, ?_,
    ?_, ?_, fun u hu => ?_⟩
  · rw [hentry]
    rfl
  · rw [hentry]
    rfl
  · rw [symCode, hentry, codeOf_codeEntry (by simp)]
  · rw [built_ct_single hsingle, ctAt_writeCode_ne _ _ hu, ctAt_emptyTable]
    rfl

/-! ### Two symbols and more -/

theorem exists_seen {s : State} (hpos : 1 ≤ symbolsSeen s) : ∃ sym, freqAt s sym ≠ 0#32 := by
  obtain ⟨sym, hsym⟩ := List.exists_mem_of_length_pos (l := seenSymbols s) hpos
  exact ⟨sym, (mem_seenSymbols s sym).mp hsym⟩

/-- A leaf below NODECNT is that of one of the symbols seen (R151). -/
theorem built_leaf_index {s : State} {i : Nat} (hi : i < (builtForest s).k)
    (hleaf : (nodeAt (builtForest s).node i).leaf = true) :
    ∃ h : i < (seenSymbols s).length, (nodeAt (builtForest s).node i).sym = (seenSymbols s)[i] := by
  have hlt : i < (seenSymbols s).length := by
    by_contra hge
    exact absurd (hleaf.symm.trans ((built_leaf_iff s hi).mpr (Nat.le_of_not_lt hge))) (by decide)
  exact ⟨hlt, congrArg Node.sym (nodeAt_built_leaf s hlt)⟩

/-- A symbol has one leaf only (R151). -/
theorem built_leaf_unique {s : State} {i j : Nat} (hi : i < (builtForest s).k) (hj : j < (builtForest s).k)
    (hleafi : (nodeAt (builtForest s).node i).leaf = true) (hleafj : (nodeAt (builtForest s).node j).leaf = true)
    (hsym : (nodeAt (builtForest s).node i).sym = (nodeAt (builtForest s).node j).sym) : i = j := by
  obtain ⟨hi, hsymi⟩ := built_leaf_index hi hleafi
  obtain ⟨hj, hsymj⟩ := built_leaf_index hj hleafj
  exact (seenSymbols_nodup s).getElem_inj_iff.mp (hsymi.symm.trans (hsym.trans hsymj))

/-- The path p leads from ROOT to node i, and this is the leaf of the symbol. -/
structure LeafPath (s : State) (sym : Byte) (p : Bits) (i : Nat) : Prop where
  path : Reaches (builtForest s).node (built s).tree.root.toNat p i
  leaf : (nodeAt (builtForest s).node i).leaf = true
  sym : (nodeAt (builtForest s).node i).sym = sym

/-- For n ≥ 2 ROOT is internal (R155). -/
theorem built_root_inner {s : State} (htwo : 2 ≤ symbolsSeen s) :
    (nodeAt (builtForest s).node (built s).tree.root.toNat).leaf = false := by
  have hseen := exists_seen (s := s) (by omega)
  have hroot := built_root hseen
  have hk := builtForest_k hseen
  exact (built_leaf_iff s (by omega)).mpr (by omega)

theorem exists_leafPath {s : State} {sym : Byte} (hsym : freqAt s sym ≠ 0#32) : ∃ p i, LeafPath s sym p i := by
  have hseen : ∃ u, freqAt s u ≠ 0#32 := ⟨sym, hsym⟩
  obtain ⟨i, hi, hget⟩ := List.getElem_of_mem ((mem_seenSymbols s sym).mpr hsym)
  have hnode : nodeAt (builtForest s).node i = leafNode s sym := by rw [← hget]; exact nodeAt_built_leaf s hi
  have hk := builtForest_k hseen
  rw [seenSymbols_length] at hi
  obtain ⟨p, hp⟩ := exists_path hseen (show i < (builtForest s).k by omega)
  exact ⟨p, i, hp, by rw [hnode]; rfl, by rw [hnode]; rfl⟩

namespace LeafPath
variable {s : State} {sym : Byte} {p : Bits} {i : Nat} (htwo : 2 ≤ symbolsSeen s) (h : LeafPath s sym p i)
include htwo h

theorem bound : i < (builtForest s).k ∧ p.length ≤ symbolsSeen s - 1 := path_bound (exists_seen (by omega)) h.path

theorem length_le : p.length ≤ 255 := by
  have hlen := (h.bound htwo).2
  have hle := symbolsSeen_le s
  omega

theorem ne_nil : p ≠ [] := by
  rintro rfl
  exact absurd (h.leaf.symm.trans (h.path ▸ built_root_inner htwo)) (by decide)

/-- Only a symbol seen has a leaf (R151). -/
theorem seen : freqAt s sym ≠ 0#32 := by
  obtain ⟨hi, hsym⟩ := built_leaf_index (h.bound htwo).1 h.leaf
  rw [← mem_seenSymbols, ← h.sym, hsym]
  exact List.getElem_mem hi

theorem unique {q : Bits} {j : Nat} (hq : LeafPath s sym q j) : p = q := by
  obtain rfl : i = j :=
    built_leaf_unique (h.bound htwo).1 (hq.bound htwo).1 h.leaf hq.leaf (h.sym.trans hq.sym.symm)
  exact path_unique (exists_seen (by omega)) h.path hq.path

end LeafPath

/-- For n ≥ 2 an entry of the table is the code of a path to the symbol's leaf, or the zero entry of a symbol without a leaf
(R170, R172). -/
theorem built_ct_cases {s : State} (htwo : 2 ≤ symbolsSeen s) (sym : Byte) :
    (∃ p i, LeafPath s sym p i ∧ ctAt (built s).ct sym = codeEntry p) ∨
      ((∀ p i, ¬ LeafPath s sym p i) ∧ ctAt (built s).ct sym = CtEntry.empty) := by
  have hfuel (q : Bits) (j : Nat) (hq : Reaches (builtForest s).node (built s).tree.root.toNat q j) : q.length < 256 := by
    have hlen := (path_bound (exists_seen (by omega)) hq).2
    have hle := symbolsSeen_le s
    omega
  have hct : (built s).ct = walk (builtForest s).node 256 (built s).tree.root [] emptyTable :=
    if_neg (Bool.eq_false_iff.mp (built_root_inner htwo))
  rw [hct]
  rcases walk_cases [] emptyTable sym hfuel with ⟨p, i, hpath, hleaf, hsym, hentry⟩ | ⟨hnone, hkeep⟩
  · exact .inl ⟨p, i, ⟨hpath, hleaf, hsym⟩, hentry⟩
  · exact .inr ⟨fun p i h => hnone p i h.path h.leaf h.sym, by rw [hkeep, ctAt_emptyTable]⟩

/-- The entry of a symbol is the code of its path (R170). -/
theorem LeafPath.entry {s : State} {sym : Byte} {p : Bits} {i : Nat} (htwo : 2 ≤ symbolsSeen s) (h : LeafPath s sym p i) :
    ctAt (built s).ct sym = codeEntry p := by
  rcases built_ct_cases htwo sym with ⟨q, j, hq, hentry⟩ | ⟨hnone, -⟩
  · rw [h.unique htwo hq, hentry]
  · exact absurd h (hnone p i)

theorem LeafPath.symCode_eq {s : State} {sym : Byte} {p : Bits} {i : Nat} (htwo : 2 ≤ symbolsSeen s)
    (h : LeafPath s sym p i) : symCode (built s).ct sym = p := by
  rw [symCode, h.entry htwo, codeOf_codeEntry (h.length_le htwo)]

/-- Settles O27: the code is the bits of the path to the symbol's leaf (`LeafPath.symCode_eq`), and following them ends there. -/
theorem codesArePaths : Obligations.CodesArePaths := by
  unfold Obligations.CodesArePaths
  intro s t sym herr hidle htwo hexec hsym stop
  obtain rfl := eq_built herr hidle ⟨sym, hsym⟩ hexec
  obtain ⟨p, i, h⟩ := exists_leafPath hsym
  have hstop : stop = i := (congrArg _ (h.symCode_eq htwo)).trans h.path.foldl_childOn
  rw [hstop]
  exact ⟨h.leaf, h.sym⟩

/-! ### The table of any number of symbols -/

theorem single_or_two {s : State} (hseen : ∃ sym, freqAt s sym ≠ 0#32) :
    (∃ sym, seenSymbols s = [sym]) ∨ 2 ≤ symbolsSeen s :=
  (symbolsSeen_pos hseen).eq_or_lt.imp_left fun hone => List.length_eq_one_iff.mp hone.symm

/-- A symbol seen has an entry of 1 to n - 1 bits, of one bit for n = 1 (R171, R173 (a), (b)). -/
theorem built_ct_seen {s : State} {sym : Byte} (hsym : freqAt s sym ≠ 0#32) :
    ∃ p, p ≠ [] ∧ p.length ≤ max 1 (symbolsSeen s - 1) ∧ ctAt (built s).ct sym = codeEntry p := by
  rcases single_or_two ⟨sym, hsym⟩ with ⟨u, hsingle⟩ | htwo
  · have hmem := (mem_seenSymbols s sym).mpr hsym
    rw [hsingle, List.mem_singleton] at hmem
    exact ⟨[false], by simp, Nat.le_max_left _ _, by rw [built_ct_single hsingle, hmem, ctAt_writeCode_same]⟩
  · obtain ⟨p, i, h⟩ := exists_leafPath hsym
    exact ⟨p, h.ne_nil htwo, (h.bound htwo).2.trans (Nat.le_max_right _ _), h.entry htwo⟩

/-- A symbol not seen has the zero entry (R172). -/
theorem built_ct_unseen {s : State} {sym : Byte} (hseen : ∃ u, freqAt s u ≠ 0#32) (hsym : freqAt s sym = 0#32) :
    ctAt (built s).ct sym = CtEntry.empty := by
  rcases single_or_two hseen with ⟨u, hsingle⟩ | htwo
  · have hne : sym ≠ u := fun heq => (mem_seenSymbols s sym).mp (by simp [hsingle, heq]) hsym
    rw [built_ct_single hsingle, ctAt_writeCode_ne _ _ hne, ctAt_emptyTable]
  · rcases built_ct_cases htwo sym with ⟨p, i, h, -⟩ | ⟨-, hentry⟩
    · exact absurd hsym (h.seen htwo)
    · exact hentry

/-- The symbols with a code are the symbols seen (R173 (a)). -/
theorem hasCode_built_iff {s : State} (hseen : ∃ u, freqAt s u ≠ 0#32) (sym : Byte) :
    HasCode (built s).ct sym ↔ freqAt s sym ≠ 0#32 := by
  refine ⟨fun hcode hzero => hcode (by rw [built_ct_unseen hseen hzero]; rfl), fun hsym => ?_⟩
  obtain ⟨p, hne, hlen, hentry⟩ := built_ct_seen hsym
  have hle := symbolsSeen_le s
  rw [HasCode, hentry]
  exact codeEntry_len_ne_zero (by omega) hne

/-- Settles O24: a symbol seen has the entry of a path (`built_ct_seen`), every other one the zero entry. -/
theorem buildCodesTheSeenSymbols : Obligations.BuildCodesTheSeenSymbols := by
  unfold Obligations.BuildCodesTheSeenSymbols
  intro s t herr hidle hseen hexec
  obtain rfl := eq_built herr hidle hseen hexec
  have hle := symbolsSeen_le s
  refine ⟨hasCode_built_iff hseen, fun sym hcode htwo => ?_, fun sym => built_ct_unseen hseen, fun sym => ?_, ?_⟩
  · obtain ⟨p, -, hlen, hentry⟩ := built_ct_seen ((hasCode_built_iff hseen sym).mp hcode)
    rw [hentry, codeEntry_len (by omega)]
    omega
  · by_cases hsym : freqAt s sym = 0#32
    · rw [built_ct_unseen hseen hsym]
      decide
    · obtain ⟨p, -, hlen, hentry⟩ := built_ct_seen hsym
      rw [hentry, codeEntry_len (by omega), codeEntry_code (by omega)]
      exact num_lt p
  · have hcodes : ∀ sym ∈ allSymbols, decide ((ctAt (built s).ct sym).len ≠ 0#8) = decide (freqAt s sym ≠ 0#32) :=
      fun sym _ => decide_eq_decide.mpr (hasCode_built_iff hseen sym)
    rw [regValue, symbolCount_eq, List.filter_congr hcodes, symbolsSeen]

/-! ### No code begins another, and the code is complete -/

/-- Two symbols whose codes begin one another are the same: the shorter path already ends at a leaf (R173 (c)). -/
theorem prefixFree_built {s : State} (hseen : ∃ sym, freqAt s sym ≠ 0#32) : PrefixFree (built s).ct := by
  intro a b hne ha hb hprefix
  rw [hasCode_built_iff hseen] at ha hb
  rcases single_or_two hseen with ⟨u, hsingle⟩ | htwo
  · rw [← mem_seenSymbols, hsingle, List.mem_singleton] at ha hb
    exact hne (ha.trans hb.symm)
  · obtain ⟨p, i, hp⟩ := exists_leafPath ha
    obtain ⟨q, j, hq⟩ := exists_leafPath hb
    rw [hp.symCode_eq htwo, hq.symCode_eq htwo] at hprefix
    obtain rfl := hp.path.eq_of_prefix hq.path hp.leaf hprefix
    exact hne (hp.sym.symm.trans hq.sym)

/-- Validate accepts a table that has a code and in which no code begins another (R211). -/
theorem validate_eq_none_of_prefixFree {ct : CodeTable} (hfree : PrefixFree ct) (hcode : ∃ sym, HasCode ct sym) :
    validate ct = none := by
  obtain ⟨sym, hsym⟩ := hcode
  have hmem := (mem_present ct sym _).mpr ⟨hsym, rfl⟩
  have hnonempty : ¬ (present ct).isEmpty = true := mt List.isEmpty_iff.mp (List.ne_nil_of_mem hmem)
  have hpair (x y : Byte × Bits) (hx : x ∈ present ct) (hy : y ∈ present ct) : ¬ pairViolates x y = true := by
    obtain ⟨hxcode, hxbits⟩ := (mem_present ct x.1 x.2).mp hx
    obtain ⟨hycode, hybits⟩ := (mem_present ct y.1 y.2).mp hy
    simp only [pairViolates, isPrefix, Bool.and_eq_true, bne_iff_ne, List.isPrefixOf_iff_prefix, ← hxbits, ← hybits]
    rintro ⟨⟨hne, -⟩, hprefix⟩
    exact hfree x.1 y.1 hne hxcode hycode hprefix
  rw [validate, if_neg hnonempty]
  exact List.findSome?_eq_none_iff.mpr fun x hx => List.findSome?_eq_none_iff.mpr fun y hy => if_neg (hpair x y hx hy)

/-- Settles O25: `prefixFree_built`, and Validate accepts such a table. -/
theorem buildMakesPrefixCode : Obligations.BuildMakesPrefixCode := by
  unfold Obligations.BuildMakesPrefixCode
  intro s t herr hidle hseen hexec
  obtain rfl := eq_built herr hidle hseen hexec
  have hfree := prefixFree_built hseen
  exact ⟨hfree, validate_eq_none_of_prefixFree hfree (hseen.imp fun sym => (hasCode_built_iff hseen sym).mpr)⟩

/-- Settles O26: the bit string meets a path to a leaf, which is the code of the leaf's symbol, and no code is longer than the
string. -/
theorem buildCodeIsComplete : Obligations.BuildCodeIsComplete := by
  unfold Obligations.BuildCodeIsComplete
  intro s t p herr hidle htwo hexec hlong
  have hseen := exists_seen (s := s) (by omega)
  obtain rfl := eq_built herr hidle hseen hexec
  have hroot : (built s).tree.root.toNat < (builtForest s).k := Nat.lt_of_succ_le (built_root hseen).le
  obtain ⟨q, i, hpath, hleaf, hmeet⟩ := exists_leaf_along hroot p
  have h : LeafPath s (nodeAt (builtForest s).node i).sym q i := ⟨hpath, hleaf, rfl⟩
  refine ⟨_, (hasCode_built_iff hseen _).mpr (h.seen htwo), ?_⟩
  rw [h.symCode_eq htwo]
  rcases hmeet with hqp | hpq
  · exact hqp
  · have hlen := len_le_longestCode (built s).ct (nodeAt (builtForest s).node i).sym
    rw [h.entry htwo, codeEntry_len (h.length_le htwo)] at hlen
    rw [hpq.eq_of_length_le (hlen.trans hlong)]

end Sys2Proof.Machine
end

section
/-! PROOFS. The packer: what PKSTART, PKB and PKEND do, and what a packing session pushes and counts (44_packer R190 to R195). -/

namespace Sys2Proof.Machine

/-- Settles O29: PKSTART's rule ends with the packer cleared. -/
theorem pkstartOpens : Obligations.PkstartOpens := by
  unfold Obligations.PkstartOpens
  intro s herr hidle
  have hallow : allowed Instr.pkstart.mnemonic s.phase = true := by rw [hidle]; rfl
  exact exec_done .pkstart s _ herr hallow rfl

/-! ### PKB -/

/-- Fewer than eight bits fit in ACCN and ACCV (R52). -/
theorem accumulator_of_rest {rest : Bits} (hshort : rest.length < 8) :
    (BitVec.ofNat 3 rest.length).toNat = rest.length ∧ (BitVec.ofNat 7 (num rest)).toNat = num rest :=
  ⟨Nat.mod_eq_of_lt hshort,
    Nat.mod_eq_of_lt ((num_lt rest).trans_le (Nat.pow_le_pow_right (by decide) (Nat.le_of_lt_succ hshort)))⟩

/-- What PKB stores in ACCN and ACCV is read back as the pending bits (R191). -/
theorem pendingBits_of_rest {rest : Bits} (hshort : rest.length < 8) (syms : Word) (bits : BitVec 64) (last : BitVec 4) :
    pendingBits ⟨.ofNat 3 rest.length, .ofNat 7 (num rest), syms, bits, last⟩ = rest := by
  obtain ⟨haccn, haccv⟩ := accumulator_of_rest hshort
  rw [pendingBits, haccn, haccv, bitsOf_num]

@[simp] theorem symCode_length (ct : CodeTable) (sym : Byte) : (symCode ct sym).length = (ctAt ct sym).len.toNat :=
  codeOf_length _

/-- Settles O30: the two errors are the guards of PKB's rule, and past them `packBytes_spec` says what is pushed and what stays
pending. -/
theorem pkbAppendsCode : Obligations.PkbAppendsCode := by
  unfold Obligations.PkbAppendsCode
  intro s sym herr hpack
  have hallow : allowed (Instr.pkb sym).mnemonic s.phase = true := by rw [hpack]; rfl
  refine ⟨fun hno => ?_, fun hcode hfull => ?_, fun hcode hlow => ?_⟩
  · exact exec_raise (.pkb sym) s s .noCode (operandNumber sym) herr hallow (if_pos (not_not.mp hno))
  · have hmax : s.pk.syms = Config.countMax := BitVec.eq_of_toNat_eq hfull
    exact exec_raise (.pkb sym) s s .overflow (operandNumber sym) herr hallow ((if_neg hcode).trans (if_pos hmax))
  · have hbelow : s.pk.syms ≠ Config.countMax := fun h => hlow (by rw [h]; rfl)
    obtain ⟨hbits, hrest, hbytes⟩ := packBytes_spec (pendingBits s.pk ++ symCode s.ct sym)
    rw [List.length_append, pendingBits_length, symCode_length] at hrest hbytes
    have hshort : (packBytes (pendingBits s.pk ++ symCode s.ct sym)).2.length < 8 := hrest ▸ Nat.mod_lt _ (by decide)
    obtain ⟨haccn, haccv⟩ := accumulator_of_rest hshort
    refine ⟨_, _, exec_done (.pkb sym) s _ herr hallow ((if_neg hcode).trans (if_neg hbelow)), ?_, hbytes, haccn.trans hrest, ?_,
      rfl⟩
    · exact (congrArg _ (pendingBits_of_rest hshort _ _ _)).trans hbits
    · exact (haccv.trans_lt (num_lt _)).trans_eq (congrArg (2 ^ ·) haccn.symm)

/-! ### PKEND -/

/-- PKEND with nothing pending pushes nothing, and the final byte, if any, was a whole one (R192). -/
theorem pkendEffect_of_nothing_pending {s : State} (hnone : s.pk.accn = 0#3) :
    pkendEffect s = .done { s with
      pk := { s.pk with accn := 0#3, accv := 0#7, last := if s.pk.bits = 0#64 then 0#4 else 8#4 }
      phase := .idle } := by
  simp only [pkendEffect, if_pos hnone]

/-- PKEND with pending bits pushes the padded byte (R192, R194). -/
theorem pkendEffect_of_pending {s : State} (hsome : s.pk.accn ≠ 0#3) :
    pkendEffect s = .done { s with
      outq := s.outq ++ [paddedByte s.pk]
      pk := { s.pk with accn := 0#3, accv := 0#7, last := s.pk.accn.zeroExtend 4 }
      phase := .idle } := by
  simp only [pkendEffect, if_neg hsome]
  rfl

/-- The padded byte is the pending bits followed by zeros, bit 7 first (R194). -/
theorem bitsOfByte_paddedByte (p : Packer) :
    bitsOfByte (paddedByte p) = pendingBits p ++ List.replicate (8 - p.accn.toNat) false := by
  refine bitsOfByte_byteOfBits _ ?_
  rw [List.length_append, pendingBits_length, List.length_replicate]
  omega

/-- Settles O31: with pending bits the byte pushed is made of the eight bits of R194. -/
theorem pkendFlushes : Obligations.PkendFlushes := by
  unfold Obligations.PkendFlushes
  intro s herr hpack
  have hallow : allowed Instr.pkend.mnemonic s.phase = true := by rw [hpack]; rfl
  by_cases hnone : s.pk.accn = 0#3
  · exact ⟨_, [], exec_done .pkend s _ herr hallow (pkendEffect_of_nothing_pending hnone), fun _ => ⟨rfl, rfl⟩,
      fun hsome => absurd hnone hsome, by rw [List.append_nil]; rfl⟩
  · exact ⟨_, [paddedByte s.pk], exec_done .pkend s _ herr hallow (pkendEffect_of_pending hnone), fun h => absurd h hnone,
      fun _ => ⟨_, rfl, bitsOfByte_paddedByte s.pk, BitVec.toNat_setWidth_of_le (by decide)⟩, rfl⟩

/-! ### A packing session -/

/-- The length of a message is the sum of its code lengths (R195). -/
theorem messageBits_length (ct : CodeTable) (bs : List Byte) :
    (messageBits ct bs).length = (bs.map fun b => (symCode ct b).length).sum := List.length_flatMap

/-- A message has at most 255 bits for each symbol, the longest code of R48. -/
theorem messageBits_length_le (ct : CodeTable) (bs : List Byte) : (messageBits ct bs).length ≤ 255 * bs.length := by
  have hcode : ∀ n ∈ bs.map fun b => (symCode ct b).length, n ≤ 255 := by
    intro n hn
    obtain ⟨b, -, rfl⟩ := List.mem_map.mp hn
    rw [symCode_length]
    omega
  calc (messageBits ct bs).length
      = (bs.map fun b => (symCode ct b).length).sum := messageBits_length ct bs
    _ ≤ bs.length * 255 := by simpa using List.sum_le_card_nsmul _ _ hcode
    _ = 255 * bs.length := Nat.mul_comm _ _

/-- Pushed bytes have eight bits each (R95). -/
theorem bytesBits_length (bytes : List Byte) : (bytes.flatMap bitsOfByte).length = 8 * bytes.length := by
  simp [List.length_flatMap, Nat.mul_comm]

/-- The packing session that began with the table `ct` and the queue `out` has no error and has packed exactly `bs` (R195). -/
structure HasPacked (ct : CodeTable) (out : List Byte) (bs : List Byte) (s : State) : Prop where
  noErr : s.latch.err = false
  inPack : s.phase = .pack
  table : s.ct = ct
  syms : s.pk.syms.toNat = bs.length
  bits : s.pk.bits.toNat = (messageBits ct bs).length
  pushed : ∃ bytes, s.outq = out ++ bytes ∧ bytes.flatMap bitsOfByte ++ pendingBits s.pk = messageBits ct bs

/-- After PKSTART nothing is packed (R190). -/
theorem hasPacked_pkstart {s : State} (herr : s.latch.err = false) (hidle : s.phase = .idle) :
    ∃ t, exec .pkstart s = .next t ∧ HasPacked s.ct s.outq [] t :=
  ⟨_, pkstartOpens s herr hidle, herr, rfl, rfl, rfl, rfl, [], by simp, rfl⟩

/-- PKB b below the largest PKSYMS packs b; as PKBITS ≤ 255 · PKSYMS, neither count wraps (R191, R54). -/
theorem HasPacked.pkb {ct : CodeTable} {out bs : List Byte} {s : State} (h : HasPacked ct out bs s) {b : Byte}
    (hcode : HasCode ct b) (hlow : bs.length < 2 ^ 32 - 1) :
    ∃ t, exec (.pkb b) s = .next t ∧ HasPacked ct out (bs ++ [b]) t := by
  obtain ⟨herr, hpack, rfl, hsyms, hbits, bytes, houtq, hpushed⟩ := h
  obtain ⟨-, -, happends⟩ := pkbAppendsCode s b herr hpack
  obtain ⟨t, new, hexec, happended, -, -, -, hframe⟩ := happends hcode (by omega)
  have hmessage : messageBits s.ct (bs ++ [b]) = messageBits s.ct bs ++ symCode s.ct b := by simp [messageBits]
  have hle := messageBits_length_le s.ct bs
  have hfield {α : Type} (f : State → α) := congrArg f hframe
  refine ⟨t, hexec, (hfield (·.latch.err)).trans herr, (hfield (·.phase)).trans hpack, hfield (·.ct), ?_, ?_, bytes ++ new,
    ?_, ?_⟩
  · rw [hfield (·.pk.syms), BitVec.toNat_add_of_lt (by simp; omega), hsyms, List.length_append]
    rfl
  · have hlen : ((ctAt s.ct b).len.zeroExtend 64).toNat = (ctAt s.ct b).len.toNat := BitVec.toNat_setWidth_of_le (by decide)
    rw [hfield (·.pk.bits), BitVec.toNat_add_of_lt (by omega), hlen, hbits, hmessage, List.length_append, symCode_length]
  · rw [hfield (·.outq), houtq, List.append_assoc]
  · rw [List.flatMap_append, List.append_assoc, happended, ← List.append_assoc, hpushed, hmessage]

/-- PKBs of symbols that have codes, as many as PKSYMS can count, are all packed in their order (R195). -/
theorem HasPacked.pkbs {ct : CodeTable} {out bs : List Byte} (cs : List Byte) {s : State} (h : HasPacked ct out bs s)
    (hcodes : ∀ c ∈ cs, HasCode ct c) (hfit : bs.length + cs.length ≤ 2 ^ 32 - 1) (rest : List Instr) :
    ∃ t, execAll (cs.map .pkb ++ rest) s = execAll rest t ∧ HasPacked ct out (bs ++ cs) t := by
  induction cs generalizing bs s with
  | nil => exact ⟨s, rfl, by simpa using h⟩
  | cons c cs ih =>
    rw [List.length_cons] at hfit
    obtain ⟨hc, hcs⟩ := List.forall_mem_cons.mp hcodes
    obtain ⟨u, hexec, hu⟩ := h.pkb hc (by omega)
    obtain ⟨t, ht, hpacked⟩ := ih hu hcs (by simp; omega)
    exact ⟨t, by rw [List.map_cons, List.cons_append, execAll_cons hexec, ht], by simpa using hpacked⟩

/-- In a session ACCN counts the bits of the message that fill no whole byte (R52, R191). -/
theorem HasPacked.accn {ct : CodeTable} {out bs : List Byte} {s : State} (h : HasPacked ct out bs s) :
    s.pk.accn.toNat = s.pk.bits.toNat % 8 := by
  obtain ⟨bytes, -, hpushed⟩ := h.pushed
  have hlen := congrArg List.length hpushed
  rw [List.length_append, bytesBits_length, pendingBits_length, ← h.bits] at hlen
  omega

/-- PKEND pushes what is pending of the message, padded to a whole byte, and counts the data bits of the final byte (R192,
R194). -/
theorem HasPacked.pkend {ct : CodeTable} {out bs : List Byte} {s : State} (h : HasPacked ct out bs s) :
    ∃ t bytes, exec .pkend s = .next t ∧
      bytes.flatMap bitsOfByte = messageBits ct bs ++ List.replicate ((8 - s.pk.bits.toNat % 8) % 8) false ∧
      t.pk.last.toNat = (if s.pk.bits.toNat = 0 then 0 else (s.pk.bits.toNat - 1) % 8 + 1) ∧
      t = { s with
        outq := out ++ bytes
        pk := { s.pk with accn := 0#3, accv := 0#7, last := t.pk.last }
        phase := .idle
        slot := none
        cmdDone := true } := by
  obtain ⟨t, new, hexec, hnone, hsome, hframe⟩ := pkendFlushes s h.noErr h.inPack
  obtain ⟨bytes, houtq, hpushed⟩ := h.pushed
  have haccn := h.accn
  rw [houtq, List.append_assoc] at hframe
  refine ⟨t, bytes ++ new, hexec, ?_⟩
  by_cases hzero : s.pk.accn = 0#3
  · have hwhole : s.pk.bits.toNat % 8 = 0 := by rw [← haccn, hzero]; rfl
    have hpending : pendingBits s.pk = [] := by rw [pendingBits, hzero]; rfl
    obtain ⟨rfl, hlast⟩ := hnone hzero
    refine ⟨by simpa [hwhole, hpending] using hpushed, ?_, hframe⟩
    have hempty : s.pk.bits = 0#64 ↔ s.pk.bits.toNat = 0 := BitVec.toNat_inj.symm
    rw [hlast]
    simp only [hempty]
    split
    · rfl
    · simp only [BitVec.toNat_ofNat]
      omega
  · have hpos : s.pk.accn.toNat ≠ 0 := fun h => hzero (BitVec.eq_of_toNat_eq h)
    have hpad : (8 - s.pk.bits.toNat % 8) % 8 = 8 - s.pk.accn.toNat := by omega
    obtain ⟨b, rfl, hb, hlast⟩ := hsome hzero
    refine ⟨?_, ?_, hframe⟩
    · rw [List.flatMap_append, List.flatMap_singleton, hb, hpad, ← hpushed, List.append_assoc]
    · rw [hlast, if_neg (by omega)]
      omega

/-- Settles O32: PKSTART leaves nothing packed, the PKBs pack every symbol (`HasPacked.pkbs`), and PKEND pads the message; the
number of bytes is a consequence of their bits. -/
theorem packingSessionResult : Obligations.PackingSessionResult := by
  unfold Obligations.PackingSessionResult
  intro s bs herr hidle hcodes hfit
  obtain ⟨u, hstart, hu⟩ := hasPacked_pkstart herr hidle
  obtain ⟨v, hpkbs, hv⟩ := hu.pkbs bs hcodes (by simpa using hfit) [.pkend]
  rw [List.nil_append] at hv
  obtain ⟨t, bytes, hend, hbytes, hlast, hframe⟩ := hv.pkend
  have hfield {α : Type} (f : State → α) := congrArg f hframe
  have hbits : t.pk.bits = v.pk.bits := hfield (·.pk.bits)
  have hlen := congrArg List.length hbytes
  rw [bytesBits_length, List.length_append, List.length_replicate, ← hv.bits] at hlen
  refine ⟨t, bytes, ?_, hfield (·.outq), hbits ▸ hbytes, ?_, ?_, ?_, hbits ▸ hlast, (hfield (·.latch.err)).trans hv.noErr,
    hfield (·.phase), (hfield (·.ct)).trans hv.table⟩
  · rw [List.cons_append, execAll_cons hstart, hpkbs, execAll_cons hend]
    rfl
  · rw [hbits]
    omega
  · rw [hfield (·.pk.syms), hv.syms]
  · rw [hbits, hv.bits, messageBits_length]

end Sys2Proof.Machine
end

section
/-! PROOFS. Validate: what it reports, and that in a table it accepts no code begins another (45_decoder R211). -/

namespace Sys2Proof.Machine

/-! ### Scanning a sorted list -/

/-- Along a list in order, the search ends at the element that answers when none before it does. -/
theorem findSome?_eq_of_first {α β : Type} {before : α → α → Prop} {xs : List α} {f : α → Option β} {a : α} {b : β}
    (hsorted : xs.Pairwise before) (ha : a ∈ xs) (hfound : f a = some b) (hfirst : ∀ x ∈ xs, before x a → f x = none) :
    xs.findSome? f = some b := by
  obtain ⟨ys, zs, rfl⟩ := List.append_of_mem ha
  obtain ⟨-, -, hbefore⟩ := List.pairwise_append.mp hsorted
  have hnone : ys.findSome? f = none :=
    List.findSome?_eq_none_iff.mpr fun x hx => hfirst x (by simp [hx]) (hbefore x hx a (by simp))
  simp [List.findSome?_append, hnone, hfound]

theorem allSymbols_ascend : allSymbols.Pairwise fun x y => x.toNat < y.toNat := by
  refine List.pairwise_iff_getElem.mpr fun i j hi hj hij => ?_
  rw [allSymbols_length] at hi hj
  simp only [allSymbols_getElem, BitVec.toNat_ofNat]
  omega

/-- The pairs Validate's loops run over stand in ascending symbol order (R211). -/
theorem present_ascends (ct : CodeTable) : (present ct).Pairwise fun x y => x.1.toNat < y.1.toNat := by
  rw [present, symbols_zip, List.filterMap_map]
  refine allSymbols_ascend.filterMap _ fun x y hlt p hp q hq => ?_
  simp only [Function.comp_apply, Option.ite_none_left_eq_some, Option.some.injEq] at hp hq
  obtain ⟨-, rfl⟩ := hp
  obtain ⟨-, rfl⟩ := hq
  exact hlt

/-! ### Validate -/

/-- A symbol with a code stands in the list Validate scans (R39, R211). -/
theorem mem_present_of_hasCode {ct : CodeTable} {s : Byte} (hs : HasCode ct s) : (s, symCode ct s) ∈ present ct :=
  (mem_present ct s _).mpr ⟨hs, rfl⟩

/-- Validate's inner test is `Violates` (R211). -/
theorem pairViolates_iff {ct : CodeTable} {x y : Byte × Bits} (hx : x ∈ present ct) (hy : y ∈ present ct) :
    pairViolates x y = true ↔ Violates ct x.1 y.1 := by
  obtain ⟨hxcode, hxbits⟩ := (mem_present ct x.1 x.2).mp hx
  obtain ⟨hycode, hybits⟩ := (mem_present ct y.1 y.2).mp hy
  simp [pairViolates, isPrefix, Violates, hxcode, hycode, ← hxbits, ← hybits, and_assoc]

/-- Where no pair violates, no code begins another: what begins a code is never longer (R13, R211). -/
theorem prefixFree_of_not_violates {ct : CodeTable} (h : ∀ s t, ¬ Violates ct s t) : PrefixFree ct := by
  intro s t hne hs ht hprefix
  exact h s t ⟨hne, hs, ht, by simpa using hprefix.length_le, hprefix⟩

/-- In a table Validate accepts no code begins another (R211, R213). -/
theorem prefixFree_of_validate {ct : CodeTable} (h : validate ct = none) : PrefixFree ct := by
  simp only [validate] at h
  split at h
  · cases h
  · refine prefixFree_of_not_violates fun s t hviol => ?_
    have ⟨_, hs, ht, _⟩ := hviol
    have hsmem := mem_present_of_hasCode hs
    have htmem := mem_present_of_hasCode ht
    have hnone := List.findSome?_eq_none_iff.mp (List.findSome?_eq_none_iff.mp h _ hsmem) _ htmem
    rw [if_pos ((pairViolates_iff hsmem htmem).mpr hviol)] at hnone
    cases hnone

/-- Settles O33: without codes `present` is empty; both loops end at the first violating pair, as they run in symbol order; and a
table without one is `PrefixFree`. -/
theorem validateReports : Obligations.ValidateReports := by
  unfold Obligations.ValidateReports
  refine fun ct => ⟨fun hempty => ?_, fun s t hviol hfirst => ?_, fun hcode hnone => ?_⟩
  · have hpresent : present ct = [] :=
      List.eq_nil_iff_forall_not_mem.mpr fun x hx => hempty x.1 ((mem_present ct x.1 x.2).mp hx).1
    simp [validate, hpresent]
  · have ⟨_, hs, ht, _⟩ := hviol
    have hsmem := mem_present_of_hasCode hs
    have htmem := mem_present_of_hasCode ht
    have hnonempty : ¬ (present ct).isEmpty = true := mt List.isEmpty_iff.mp (List.ne_nil_of_mem hsmem)
    rw [validate, if_neg hnonempty]
    refine findSome?_eq_of_first (present_ascends ct) hsmem
      (findSome?_eq_of_first (present_ascends ct) htmem (if_pos ((pairViolates_iff hsmem htmem).mpr hviol)) ?_) ?_
    · intro y hy hlt
      refine if_neg fun h => ?_
      rcases hfirst _ _ ((pairViolates_iff hsmem hy).mp h) with hself | ⟨-, hle⟩
      · exact lt_irrefl _ hself
      · exact absurd hlt hle.not_gt
    · intro x hx hlt
      refine List.findSome?_eq_none_iff.mpr fun y hy => if_neg fun h => ?_
      rcases hfirst _ _ ((pairViolates_iff hx hy).mp h) with hle | ⟨heq, -⟩
      · exact absurd hlt hle.not_gt
      · exact absurd hlt (heq ▸ lt_irrefl _)
  · exact validate_eq_none_of_prefixFree (prefixFree_of_not_violates hnone) hcode

end Sys2Proof.Machine
end

section
/-! PROOFS. The decoder: DARM and DEND, what feeding bits does to a session over a `PrefixFree` table, and with it what DIN does and
that a decoding session undoes a packing session (45_decoder R212 to R217). -/

namespace Sys2Proof.Machine

/-! ### DARM and DEND -/

/-- Settles O34: DARM's rule asks for DCNT = 0 first, then for Validate's answer. -/
theorem darmArms : Obligations.DarmArms := by
  unfold Obligations.DarmArms
  intro s herr hidle
  have hallow : allowed Instr.darm.mnemonic s.phase = true := by rw [hidle]; rfl
  refine ⟨fun hopen => ?_, fun x hne hinvalid => ?_⟩
  · have heff : darmEffect s = .done (openDecode s) := by
      rcases hopen with hzero | hvalid
      · exact if_pos hzero
      · simp [darmEffect, hvalid]
    exact exec_done .darm s _ herr hallow heff
  · have heff : darmEffect s = .raise .corruptTable x s := by simp [darmEffect, hne, hinvalid]
    exact exec_raise .darm s s .corruptTable x herr hallow heff

/-- Settles O37: DEND's rule compares the two counts. -/
theorem dendCloses : Obligations.DendCloses := by
  unfold Obligations.DendCloses
  intro s herr hdecode
  have hallow : allowed Instr.dend.mnemonic s.phase = true := by rw [hdecode]; rfl
  exact ⟨fun hall => exec_done .dend s _ herr hallow (if_neg hall.not_gt),
    fun hmissing => exec_raise .dend s s .underrun _ herr hallow (if_pos hmissing)⟩

/-! ### One bit -/

/-- The state with another candidate (R58). -/
def withCand (p : Bits) (s : State) : State := { s with dec := { s.dec with cand := p } }

@[simp] theorem withCand_dec (p : Bits) (s : State) : (withCand p s).dec = { s.dec with cand := p } := rfl
@[simp] theorem withCand_self (s : State) : withCand s.dec.cand s = s := rfl
@[simp] theorem withCand_withCand (p q : Bits) (s : State) : withCand p (withCand q s) = withCand p s := rfl

/-- The state after the codes of `syms`: these bytes are pushed and counted, and no candidate is pending (R213). -/
def withDecoded (syms : List Byte) (s : State) : State :=
  { s with
    outq := s.outq ++ syms
    dec := { s.dec with doutcnt := s.dec.doutcnt + BitVec.ofNat 32 syms.length, cand := [] } }

@[simp] theorem withDecoded_dec (syms : List Byte) (s : State) : (withDecoded syms s).dec =
    { s.dec with doutcnt := s.dec.doutcnt + BitVec.ofNat 32 syms.length, cand := [] } := rfl

theorem withDecoded_nil (s : State) : withDecoded [] s = withCand [] s := by simp [withDecoded, withCand]

theorem withDecoded_withDecoded (xs ys : List Byte) (s : State) :
    withDecoded ys (withDecoded xs s) = withDecoded (xs ++ ys) s := by
  simp [withDecoded, BitVec.ofNat_add, BitVec.add_assoc]

/-- The count after decoding bytes that DCNT has room for (R57). -/
theorem withDecoded_doutcnt {syms : List Byte} {s : State} (hfit : s.dec.doutcnt.toNat + syms.length ≤ s.dec.dcnt.toNat) :
    (withDecoded syms s).dec.doutcnt.toNat = s.dec.doutcnt.toNat + syms.length := by
  have := s.dec.dcnt.isLt
  simp only [withDecoded_dec, BitVec.toNat_add, BitVec.toNat_ofNat]
  omega

/-- A code is never empty: len = 0 is no entry (R48). -/
theorem symCode_ne_nil {ct : CodeTable} {sym : Byte} (hsym : HasCode ct sym) : symCode ct sym ≠ [] := by
  intro hnil
  have hlen : (ctAt ct sym).len.toNat = 0 := by rw [← symCode_length, hnil]; rfl
  exact hsym (BitVec.eq_of_toNat_eq hlen)

/-- Where no code begins another, the symbol matched by a code is the one whose code it is (R213). -/
theorem matchedSymbol_symCode {ct : CodeTable} (hfree : PrefixFree ct) {sym : Byte} (hsym : HasCode ct sym) :
    matchedSymbol ct (symCode ct sym) = some sym := by
  cases hm : matchedSymbol ct (symCode ct sym) with
  | none => exact absurd rfl (matchedSymbol_none ct _ hm sym hsym)
  | some x =>
    obtain ⟨hx, hcode⟩ := matchedSymbol_some ct _ x hm
    rw [of_not_not fun hne => hfree x sym hne hx hsym (hcode ▸ List.prefix_rfl)]

/-- Where no code begins another, nothing that properly starts a code is itself one (R213). -/
theorem StartsACode.matchedSymbol_eq_none {ct : CodeTable} (hfree : PrefixFree ct) {p : Bits} (hp : StartsACode ct p) :
    matchedSymbol ct p = none := by
  obtain ⟨sym, hsym, hprefix, hlt⟩ := hp
  refine Option.eq_none_iff_forall_ne_some.mpr fun x hm => ?_
  obtain ⟨hx, rfl⟩ := matchedSymbol_some ct _ x hm
  exact hfree x sym (fun h => by simp [h] at hlt) hx hsym hprefix

/-- A beginning of what properly starts a code does so too (R12). -/
theorem StartsACode.of_prefix {ct : CodeTable} {p q : Bits} (hq : StartsACode ct q) (hpq : p <+: q) : StartsACode ct p := by
  obtain ⟨sym, hsym, hprefix, hlt⟩ := hq
  exact ⟨sym, hsym, hpq.trans hprefix, hpq.length_le.trans_lt hlt⟩

/-- A bit after which codes remain possible joins the candidate (R213). -/
theorem stepBit_of_startsACode {s : State} {bit : Bool} (hfree : PrefixFree s.ct)
    (hstarts : StartsACode s.ct (s.dec.cand ++ [bit])) : stepBit bit s = .done (withCand (s.dec.cand ++ [bit]) s) := by
  simp only [stepBit, hstarts.matchedSymbol_eq_none hfree, (canStillMatch_iff _ _).mpr hstarts]
  rfl

/-- A bit that completes a code decodes its symbol (R213). -/
theorem stepBit_of_symCode {s : State} {bit : Bool} {sym : Byte} (hfree : PrefixFree s.ct) (hsym : HasCode s.ct sym)
    (hcode : s.dec.cand ++ [bit] = symCode s.ct sym) : stepBit bit s = .done (withDecoded [sym] s) := by
  simp only [stepBit, hcode, matchedSymbol_symCode hfree hsym]
  rfl

/-- A bit after which no code is possible is a dead end (R213, R237). -/
theorem stepBit_of_dead {s : State} {bit : Bool} (hdead : ¬ StartsACode s.ct (s.dec.cand ++ [bit]))
    (hnone : ∀ x, HasCode s.ct x → symCode s.ct x ≠ s.dec.cand ++ [bit]) :
    stepBit bit s = .raise .deadEnd s.dec.doutcnt (withCand (s.dec.cand ++ [bit]) s) := by
  have hmatch : matchedSymbol s.ct (s.dec.cand ++ [bit]) = none :=
    Option.eq_none_iff_forall_ne_some.mpr fun x hm => (matchedSymbol_some s.ct _ x hm).elim (hnone x)
  simp only [stepBit, hmatch, (canStillMatch_iff _ _).not.mpr hdead]
  rfl

/-! ### The loop over bits -/

/-- With DOUTCNT = DCNT every bit is ignored (R216). -/
theorem feedBits_of_full (bits : Bits) {s : State} (hfull : s.dec.doutcnt = s.dec.dcnt) : feedBits bits s = .done s := by
  cases bits with
  | nil => rfl
  | cons bit bits => exact if_pos hfull

/-- A bit that raises nothing is followed by the rest of the loop (R214). -/
theorem feedBits_cons_of_done {bit : Bool} {s t : State} (hmore : s.dec.doutcnt ≠ s.dec.dcnt) (hbit : stepBit bit s = .done t)
    (bits : Bits) : feedBits (bit :: bits) s = feedBits bits t := by
  simp only [feedBits, if_neg hmore, hbit]

/-- A bit that raises ends the loop (R214). -/
theorem feedBits_cons_of_raise {bit : Bool} {s t : State} {c : ErrCode} {x : Word} (hmore : s.dec.doutcnt ≠ s.dec.dcnt)
    (hbit : stepBit bit s = .raise c x t) (bits : Bits) : feedBits (bit :: bits) s = .raise c x t := by
  simp only [feedBits, if_neg hmore, hbit]

/-- Bits after which codes remain possible join the candidate (R213, R214). -/
theorem feedBits_of_startsACode (q rest : Bits) {s : State} (hfree : PrefixFree s.ct) (hmore : s.dec.doutcnt ≠ s.dec.dcnt)
    (hstarts : q = [] ∨ StartsACode s.ct (s.dec.cand ++ q)) :
    feedBits (q ++ rest) s = feedBits rest (withCand (s.dec.cand ++ q) s) := by
  induction q generalizing s with
  | nil => simp
  | cons bit q ih =>
    have hq : StartsACode s.ct (s.dec.cand ++ [bit] ++ q) := by simpa using hstarts
    have hbit := stepBit_of_startsACode hfree (hq.of_prefix (List.prefix_append _ _))
    rw [List.cons_append, feedBits_cons_of_done hmore hbit, ih (s := withCand (s.dec.cand ++ [bit]) s) hfree hmore (.inr hq)]
    simp

/-- The code of a symbol decodes it (R213, R214). -/
theorem feedBits_symCode {s : State} (hfree : PrefixFree s.ct) (hmore : s.dec.doutcnt ≠ s.dec.dcnt) (hcand : s.dec.cand = [])
    {sym : Byte} (hsym : HasCode s.ct sym) (rest : Bits) :
    feedBits (symCode s.ct sym ++ rest) s = feedBits rest (withDecoded [sym] s) := by
  obtain ⟨q, bit, hcode⟩ := (List.eq_nil_or_concat' (symCode s.ct sym)).resolve_left (symCode_ne_nil hsym)
  have hstarts : StartsACode s.ct q := ⟨sym, hsym, hcode ▸ List.prefix_append _ _, by simp [hcode]⟩
  have hbit := stepBit_of_symCode (s := withCand q s) hfree hsym hcode.symm
  rw [hcode, List.append_assoc, feedBits_of_startsACode q _ hfree hmore (.inr (by simpa [hcand] using hstarts)), hcand]
  exact feedBits_cons_of_done (s := withCand q s) hmore hbit rest

/-- The codes of symbols, up to DCNT bytes in all, decode them (R214). -/
theorem feedBits_messageBits (syms : List Byte) (rest : Bits) {s : State} (hfree : PrefixFree s.ct) (hcand : s.dec.cand = [])
    (hcodes : ∀ x ∈ syms, HasCode s.ct x) (hfit : s.dec.doutcnt.toNat + syms.length ≤ s.dec.dcnt.toNat) :
    feedBits (messageBits s.ct syms ++ rest) s = feedBits rest (withDecoded syms s) := by
  induction syms generalizing s with
  | nil => rw [withDecoded_nil, ← hcand]; rfl
  | cons x syms ih =>
    obtain ⟨hx, hsyms⟩ := List.forall_mem_cons.mp hcodes
    rw [List.length_cons] at hfit
    have hmore : s.dec.doutcnt ≠ s.dec.dcnt := fun h => by rw [h] at hfit; omega
    have hone := withDecoded_doutcnt (syms := [x]) (s := s) (by simp; omega)
    rw [messageBits, List.flatMap_cons, List.append_assoc, feedBits_symCode hfree hmore hcand hx]
    refine (ih (s := withDecoded [x] s) hfree rfl hsyms ?_).trans ?_
    · rw [hone, List.length_singleton, Nat.add_assoc, Nat.add_comm 1]
      exact hfit
    · rw [withDecoded_withDecoded]
      rfl

/-- A candidate that starts a code may as well be fed again (R213). -/
theorem feedBits_restart (bits : Bits) {s : State} (hfree : PrefixFree s.ct) (hmore : s.dec.doutcnt ≠ s.dec.dcnt)
    (hcand : s.dec.cand = [] ∨ StartsACode s.ct s.dec.cand) :
    feedBits (s.dec.cand ++ bits) (withCand [] s) = feedBits bits s := by
  rw [feedBits_of_startsACode s.dec.cand bits (s := withCand [] s) hfree hmore hcand]
  rfl

/-! ### DIN -/

/-- DIN over a validated table, with bytes still due: past the codes that the candidate and the byte's bits begin with, the loop
goes on with the bits that follow them (R214). -/
theorem dinEffect_eq {s : State} {b : Byte} {syms : List Byte} {rest : Bits} (hvalid : validate s.ct = none)
    (hcand : s.dec.cand = [] ∨ StartsACode s.ct s.dec.cand) (hmore : s.dec.doutcnt ≠ s.dec.dcnt)
    (hcodes : ∀ x ∈ syms, HasCode s.ct x) (hbits : s.dec.cand ++ bitsOfByte b = messageBits s.ct syms ++ rest)
    (hfit : s.dec.doutcnt.toNat + syms.length ≤ s.dec.dcnt.toNat) :
    dinEffect b s = feedBits rest (withDecoded syms s) := by
  have hfree := prefixFree_of_validate hvalid
  rw [dinEffect, ← feedBits_restart _ hfree hmore hcand, hbits]
  exact feedBits_messageBits syms rest (s := withCand [] s) hfree rfl hcodes hfit

/-- Fewer bytes decoded than DCNT: the loop goes on (R216). -/
theorem doutcnt_ne_of_lt {s : State} (hlt : s.dec.doutcnt.toNat < s.dec.dcnt.toNat) : s.dec.doutcnt ≠ s.dec.dcnt :=
  fun h => hlt.ne (congrArg BitVec.toNat h)

theorem withDecoded_doutcnt_ne {syms : List Byte} {s : State} (hlt : s.dec.doutcnt.toNat + syms.length < s.dec.dcnt.toNat) :
    (withDecoded syms s).dec.doutcnt ≠ (withDecoded syms s).dec.dcnt :=
  doutcnt_ne_of_lt ((withDecoded_doutcnt hlt.le).trans_lt hlt)

/-- Settles O35: past the codes (`dinEffect_eq`) the rest either joins the empty candidate or meets DOUTCNT = DCNT. -/
theorem dinDecodes : Obligations.DinDecodes := by
  unfold Obligations.DinDecodes
  intro s b herr hdecode
  have hallow : allowed (Instr.din b).mnemonic s.phase = true := by rw [hdecode]; rfl
  refine ⟨fun hfull => exec_done (.din b) s s herr hallow (feedBits_of_full _ hfull),
    fun syms r hvalid hcand hlt hcodes hbits => ⟨fun hbelow hr => ?_, fun hall => ?_⟩⟩
  · have hcodesFed := dinEffect_eq hvalid hcand (doutcnt_ne_of_lt hlt) hcodes hbits hbelow.le
    have hrestFed := feedBits_of_startsACode r [] (s := withDecoded syms s) (prefixFree_of_validate hvalid)
      (withDecoded_doutcnt_ne hbelow) hr
    rw [List.append_nil] at hrestFed
    exact exec_done (.din b) s _ herr hallow (hcodesFed.trans hrestFed)
  · have hcodesFed := dinEffect_eq hvalid hcand (doutcnt_ne_of_lt hlt) hcodes hbits hall.le
    have hfull : (withDecoded syms s).dec.doutcnt = s.dec.dcnt :=
      BitVec.eq_of_toNat_eq ((withDecoded_doutcnt hall.le).trans hall)
    rw [exec_done (.din b) s _ herr hallow (hcodesFed.trans (feedBits_of_full r hfull)), ← hfull]
    rfl

/-- Settles O36: past the codes (`dinEffect_eq`) the bits of `p` join the candidate, and the next bit is dead. -/
theorem dinDeadEnd : Obligations.DinDeadEnd := by
  unfold Obligations.DinDeadEnd
  intro s b syms p bit q herr hdecode hvalid hcand hcodes hbits hp hdead hnone hlt
  have hallow : allowed (Instr.din b).mnemonic s.phase = true := by rw [hdecode]; rfl
  have hmore := withDecoded_doutcnt_ne hlt
  rw [List.append_assoc] at hbits
  have hcodesFed := dinEffect_eq hvalid hcand (doutcnt_ne_of_lt (by omega)) hcodes hbits hlt.le
  have hstartFed := feedBits_of_startsACode p (bit :: q) (s := withDecoded syms s) (prefixFree_of_validate hvalid) hmore hp
  have hbit := stepBit_of_dead (s := withCand p (withDecoded syms s)) hdead hnone
  have hraise : effectOf (.din b) s = .raise .deadEnd _ _ :=
    hcodesFed.trans (hstartFed.trans (feedBits_cons_of_raise (s := withCand p (withDecoded syms s)) hmore hbit q))
  exact ⟨_, exec_raise (.din b) s _ _ _ herr hallow hraise, rfl, rfl⟩

/-! ### A decoding session -/

/-- What the loop does with a string of bits it does with any two parts of it in turn (R214, R216). -/
theorem feedBits_append (xs ys : Bits) {s v : State} (h : feedBits (xs ++ ys) s = .done v) :
    ∃ t, feedBits xs s = .done t ∧ feedBits ys t = .done v := by
  induction xs generalizing s with
  | nil => exact ⟨s, rfl, h⟩
  | cons x xs ih =>
    by_cases hfull : s.dec.doutcnt = s.dec.dcnt
    · rw [feedBits_of_full _ hfull] at h ⊢
      exact ⟨s, rfl, (feedBits_of_full ys hfull).trans h⟩
    cases hbit : stepBit x s with
    | done u =>
      rw [List.cons_append, feedBits_cons_of_done hfull hbit] at h
      rw [feedBits_cons_of_done hfull hbit]
      exact ih h
    | raise c i u =>
      rw [List.cons_append, feedBits_cons_of_raise hfull hbit] at h
      cases h

/-- Step does not look at what Complete changes (R124, R213). -/
theorem stepBit_complete {bit : Bool} {s t : State} (h : stepBit bit s = .done t) :
    stepBit bit (complete false s) = .done (complete false t) := by
  rcases stepBit_cases bit s with ⟨sym, hmatch, heq⟩ | ⟨hmatch, hcan, heq⟩ | ⟨-, -, heq⟩ <;> rw [heq] at h <;> cases h
  · simp only [stepBit, complete_ct, complete_dec, hmatch]; rfl
  · simp only [stepBit, complete_ct, complete_dec, hmatch, hcan]; rfl

/-- Nor does the loop over the bits (R124, R214). -/
theorem feedBits_complete (bits : Bits) {s t : State} (h : feedBits bits s = .done t) :
    feedBits bits (complete false s) = .done (complete false t) := by
  induction bits generalizing s with
  | nil => cases h; rfl
  | cons bit bits ih =>
    by_cases hfull : s.dec.doutcnt = s.dec.dcnt
    · rw [feedBits_of_full _ hfull] at h
      cases h
      exact feedBits_of_full (s := complete false t) _ hfull
    cases hbit : stepBit bit s with
    | done u =>
      rw [feedBits_cons_of_done hfull hbit] at h
      exact (feedBits_cons_of_done (s := complete false s) hfull (stepBit_complete hbit) bits).trans (ih h)
    | raise c x u =>
      rw [feedBits_cons_of_raise hfull hbit] at h
      cases h

/-- DINs of bytes feed the bytes' bits one after another (R214). -/
theorem execAll_dins (bytes : List Byte) (rest : List Instr) {s v : State} (herr : s.latch.err = false)
    (hdecode : s.phase = .decode) (hfeed : feedBits (bytes.flatMap bitsOfByte) s = .done v) :
    execAll (bytes.map .din ++ rest) (complete false s) = execAll rest (complete false v) := by
  induction bytes generalizing s with
  | nil => cases hfeed; rfl
  | cons b bytes ih =>
    obtain ⟨t, hbyte, hbytes⟩ := feedBits_append (bitsOfByte b) _ hfeed
    have hframe := feedBits_frame (bitsOfByte b) s
    rw [hbyte] at hframe
    have hallow : allowed (Instr.din b).mnemonic (complete false s).phase = true := by rw [complete_phase, hdecode]; rfl
    have hdin : exec (.din b) (complete false s) = .next (complete false t) :=
      exec_done (.din b) (complete false s) (complete false t) herr hallow (feedBits_complete _ hbyte)
    rw [List.map_cons, List.cons_append, execAll_cons hdin]
    exact ih ((congrArg (·.latch.err) hframe).trans herr) ((congrArg (·.phase) hframe).trans hdecode) hbytes

/-- A decoding session over a validated table whose bytes begin with the codes of DCNT symbols pushes these symbols, whatever
bits follow, and ends without an error (R212, R214 to R216). -/
theorem execAll_decodingSession {s : State} {syms bytes : List Byte} {pad : Bits} (herr : s.latch.err = false)
    (hidle : s.phase = .idle) (hvalid : validate s.ct = none) (hcodes : ∀ x ∈ syms, HasCode s.ct x)
    (hdcnt : s.dec.dcnt.toNat = syms.length) (hbytes : bytes.flatMap bitsOfByte = messageBits s.ct syms ++ pad) :
    ∃ u, execAll (.darm :: bytes.map .din ++ [.dend]) s = .next u ∧ u.outq = s.outq ++ syms ∧ u.latch.err = false ∧
      u.phase = .idle := by
  have hfit : (openDecode s).dec.doutcnt.toNat + syms.length = (openDecode s).dec.dcnt.toNat := by
    simp [openDecode, hdcnt]
  have hcount := withDecoded_doutcnt hfit.le
  have hfull : (withDecoded syms (openDecode s)).dec.doutcnt = s.dec.dcnt := BitVec.eq_of_toNat_eq (hcount.trans hfit)
  have hfeed : feedBits (bytes.flatMap bitsOfByte) (openDecode s) = .done (withDecoded syms (openDecode s)) := by
    rw [hbytes]
    exact (feedBits_messageBits syms pad (s := openDecode s) (prefixFree_of_validate hvalid) rfl hcodes hfit.le).trans
      (feedBits_of_full pad hfull)
  have hdarm : exec .darm s = .next (complete false (openDecode s)) := (darmArms s herr hidle).1 (.inr hvalid)
  obtain ⟨hdend, -⟩ := dendCloses (complete false (withDecoded syms (openDecode s))) herr rfl
  refine ⟨_, Eq.trans ?_ (execAll_cons (hdend (congrArg BitVec.toNat hfull).ge) []), rfl, herr, rfl⟩
  rw [List.cons_append, execAll_cons hdarm, execAll_dins bytes [.dend] (s := openDecode s) herr rfl hfeed]

/-- Settles O38: the bytes packed are the message and padding (`packingSessionResult`), and a session with DCNT = PKSYMS decodes
the message and ignores the padding. -/
theorem roundTrip : Obligations.RoundTrip := by
  unfold Obligations.RoundTrip
  intro s bs herr hidle hvalid hcodes hfit
  obtain ⟨t, bytes, hpack, houtq, hbytes, -, hsyms, -, -, hterr, htidle, hct⟩ :=
    packingSessionResult s bs herr hidle hcodes hfit
  rw [← hct] at hvalid hcodes hbytes
  obtain ⟨u, hdecode, hdecoded⟩ := execAll_decodingSession (s := { t with dec := { t.dec with dcnt := t.pk.syms } })
    hterr htidle hvalid hcodes hsyms hbytes
  exact ⟨t, u, bytes, hpack, houtq, hdecode, hdecoded⟩

end Sys2Proof.Machine
end

section
/-! PROOFS. Exceptions (60_exceptions): what an erring command leaves behind (R240, R241), what a word does while ERR = 1 (R242,
R243), and the level of irq (R248). -/

namespace Sys2Proof.Machine

/-! ### What an erring command leaves behind -/

/-- A code of R230 is one of 1 to 8. -/
theorem errByte_bounds (c : ErrCode) : 1 ≤ (errByte c).toNat ∧ (errByte c).toNat ≤ 8 := by
  cases c <;> decide

/-- Another candidate is no different from one that follows no pushed byte. -/
theorem withCand_withDecoded_nil (p : Bits) (s : State) : withCand p (withDecoded [] s) = withCand p s := by
  rw [withDecoded_nil, withCand_withCand]

/-- However the loop over bits ends, it has pushed some bytes, counted them in DOUTCNT and left some candidate (R213, R214). -/
theorem feedBits_state_eq (bits : Bits) (s : State) :
    ∃ bytes cand, (feedBits bits s).state = withCand cand (withDecoded bytes s) := by
  induction bits generalizing s with
  | nil => exact ⟨[], s.dec.cand, (withCand_withDecoded_nil _ s).symm⟩
  | cons bit bits ih =>
    by_cases hfull : s.dec.doutcnt = s.dec.dcnt
    · rw [feedBits_of_full _ hfull]
      exact ⟨[], s.dec.cand, (withCand_withDecoded_nil _ s).symm⟩
    rcases stepBit_cases bit s with ⟨sym, -, hbit⟩ | ⟨-, -, hbit⟩ | ⟨-, -, hbit⟩
    · obtain ⟨bytes, cand, hrest⟩ := ih (withDecoded [sym] s)
      rw [feedBits_cons_of_done hfull hbit]
      exact ⟨sym :: bytes, cand, hrest.trans (congrArg (withCand cand) (withDecoded_withDecoded [sym] bytes s))⟩
    · obtain ⟨bytes, cand, hrest⟩ := ih (withCand (s.dec.cand ++ [bit]) s)
      rw [feedBits_cons_of_done hfull hbit]
      exact ⟨bytes, cand, hrest⟩
    · rw [feedBits_cons_of_raise hfull hbit]
      exact ⟨[], s.dec.cand ++ [bit], (withCand_withDecoded_nil _ s).symm⟩

/-- A command's rule raises before it has changed anything, except that a DIN has pushed and counted some bytes (R241). -/
theorem effectOf_raise_state {i : Instr} {s t : State} {c : ErrCode} {x : Word} (h : effectOf i s = .raise c x t) :
    t = s ∨ ∃ b bytes cand, i = .din b ∧ t = withCand cand (withDecoded bytes s) := by
  cases i with
  | din b =>
    obtain ⟨bytes, cand, hstate⟩ := feedBits_state_eq (bitsOfByte b) s
    have ht : (feedBits (bitsOfByte b) s).state = t := congrArg Effect.state h
    exact .inr ⟨b, bytes, cand, rfl, ht.symm.trans hstate⟩
  | fadd sym | build | dend =>
    simp only [effectOf, faddEffect, buildEffect, dendEffect] at h
    split at h <;> cases h
    exact .inl rfl
  | pkb sym =>
    simp only [effectOf, pkbEffect] at h
    split at h
    · cases h; exact .inl rfl
    split at h <;> cases h
    exact .inl rfl
  | darm =>
    simp only [effectOf, darmEffect] at h
    split at h
    · cases h
    split at h <;> cases h
    exact .inl rfl
  | nop | srst | errclr | fclr | ctclr | pkstart | pkend => cases h

/-- No command's own rule writes the latch but to clear it: SRST and ERRCLR do (R127, R128). -/
theorem effectOf_latch (i : Instr) (s : State) :
    (effectOf i s).state.latch = s.latch ∨ (effectOf i s).state.latch = ErrLatch.clear := by
  cases i with
  | srst | errclr => exact .inr rfl
  | fadd sym => simp only [effectOf]; rw [faddEffect_frame]; exact .inl rfl
  | build => simp only [effectOf]; rw [buildEffect_frame]; exact .inl rfl
  | pkb sym => simp only [effectOf]; rw [pkbEffect_frame]; exact .inl rfl
  | pkend => simp only [effectOf]; rw [pkendEffect_frame]; exact .inl rfl
  | darm => simp only [effectOf]; rw [darmEffect_frame]; exact .inl rfl
  | din b => simp only [effectOf, dinEffect]; rw [feedBits_frame]; exact .inl rfl
  | dend => simp only [effectOf]; rw [dendEffect_frame]; exact .inl rfl
  | nop | fclr | ctclr | pkstart => exact .inl rfl

/-- The error entry drops the candidate, so raising with no byte pushed is raising from the state itself (R240). -/
theorem raisedState_withDecoded_nil (code : Byte) (x w : Word) (s : State) :
    raisedState code x w (withDecoded [] s) = raisedState code x w s := by
  rw [withDecoded_nil]
  rfl

/-- A command whose rule ends leaves ERR = 0 if ERR was 0 (R240). -/
theorem err_of_effect_done {i : Instr} {s t : State} (herr : s.latch.err = false) (h : effectOf i s = .done t) :
    t.latch.err = false := by
  obtain hkept | hclear := effectOf_latch i s
  · rw [h, Effect.state_done] at hkept
    rw [hkept, herr]
  · rw [h, Effect.state_done] at hclear
    rw [hclear, ErrLatch.clear]

/-- A command that raises an error ends in the error entry and Complete, from the state itself or, for a DIN, from the state with
the bytes it pushed (R240, R241). -/
theorem exec_raised {i : Instr} {s t : State} (herr : s.latch.err = false) (hexec : exec i s = .next t)
    (hraised : t.latch.err = true) :
    ∃ c x bytes, t = raisedState (errByte c) x (encode i) (withDecoded bytes s) ∧ ((∀ b, i ≠ .din b) → bytes = []) := by
  cases hallow : allowed i.mnemonic s.phase with
  | false =>
    rw [exec_badPhase herr hallow] at hexec
    cases hexec
    exact ⟨.badPhase, _, [], (raisedState_withDecoded_nil _ _ _ s).symm, fun _ => rfl⟩
  | true =>
    cases heff : effectOf i s with
    | done u =>
      rw [exec_done i s u herr hallow heff] at hexec
      cases hexec
      rw [complete_latch, err_of_effect_done herr heff] at hraised
      cases hraised
    | raise c x u =>
      have hnotSrst : (i.mnemonic == .srst) = false := by
        rw [beq_eq_false_iff_ne, ne_eq, mnemonic_eq_srst_iff]
        rintro rfl
        cases heff
      rw [exec_raise i s u c x herr hallow heff, hnotSrst] at hexec
      cases hexec
      obtain rfl | ⟨b, bytes, cand, rfl, rfl⟩ := effectOf_raise_state heff
      · exact ⟨c, x, [], (raisedState_withDecoded_nil _ _ _ u).symm, fun _ => rfl⟩
      · exact ⟨c, x, bytes, rfl, fun hnotDin => absurd rfl (hnotDin b)⟩

/-- Settles O9: `exec_raised` gives the whole state an erring command leaves. -/
theorem errorsArePrecise : Obligations.ErrorsArePrecise := by
  unfold Obligations.ErrorsArePrecise
  intro i s t herr hexec hraised
  obtain ⟨c, x, bytes, rfl, hbytes⟩ := exec_raised herr hexec hraised
  obtain ⟨hlow, hhigh⟩ := errByte_bounds c
  exact ⟨hlow, hhigh, rfl, bytes, rfl, rfl, hbytes⟩

/-! ### While ERR = 1 -/

/-- The commands that run while ERR = 1 (R123, R242). -/
theorem runsInError_iff (i : Instr) : runsInError i.mnemonic = true ↔ i = .nop ∨ i = .srst ∨ i = .errclr := by
  cases i <;> simp [Instr.mnemonic, runsInError]

/-- With ERR = 1 the engine executes the word in SLOT whatever room OUTQ has (R121). -/
theorem engineStep_of_err {s : State} {w : Word} (hslot : s.slot = some w) (herr : s.latch.err = true) :
    engineStep s = execWord w s := by
  have hready : engineReady s = true := (engineReady_iff hslot).mpr (.inl herr)
  simp only [engineStep, hslot, hready, if_true]

/-- The step of a machine with a word in SLOT and ERR = 1, when the engine's turn is named or no turn is (R121, log 1). -/
theorem step_of_err {s : State} {w : Word} {rest : List Turn} (herr : s.latch.err = true) (hslot : s.slot = some w)
    (hturns : s.env.turns = .engine :: rest ∨ (s.env.turns = [] ∧ rest = [])) :
    step s = execWord w (usedTurn s rest) := by
  have hrun : engineStep (usedTurn s rest) = execWord w (usedTurn s rest) :=
    engineStep_of_err (s := usedTurn s rest) hslot herr
  obtain hnamed | ⟨hnone, rfl⟩ := hturns
  · rw [step_engine_turn hnamed, hrun]
  · have hsame : usedTurn s [] = s := by rw [← hnone]; rfl
    rw [step_no_turn_of_ready hnone ((engineReady_iff hslot).mpr (.inl herr)), ← hrun, hsame]

/-- With ERR = 1 a word, legal or not, is discarded or is NOP, SRST or ERRCLR (R123, R242). -/
theorem execWord_of_err (w : Word) {s : State} (herr : s.latch.err = true) :
    execWord w s = .next (complete false s) ∨
      ∃ i, w = encode i ∧ runsInError i.mnemonic = true ∧ execWord w s = exec i s := by
  cases hdec : decode w with
  | error e => exact .inl (by simp only [execWord, hdec, runIllegal_next, herr, if_true])
  | ok i =>
    have hexec : execWord w s = exec i s := by simp only [execWord, hdec]
    cases hrun : runsInError i.mnemonic with
    | true => exact .inr ⟨i, eq_encode_of_decode hdec, hrun, hexec⟩
    | false =>
      have hnotSrst : (i.mnemonic == .srst) = false := by
        rw [beq_eq_false_iff_ne]
        intro hsrst
        rw [hsrst] at hrun
        cases hrun
      rw [hexec, exec_of_err herr hrun, hnotSrst]
      exact .inl rfl

/-- A command that runs while ERR = 1 raises nothing: its word leaves SLOT, and the latch is what it was or clear (R242, R243). -/
theorem exec_of_runsInError_latch {i : Instr} (s : State) (hrun : runsInError i.mnemonic = true) :
    ∃ t, exec i s = .next t ∧ t.slot = none ∧ (t.latch = s.latch ∨ t.latch = ErrLatch.clear) := by
  cases heff : effectOf i s with
  | done t =>
    have hlatch := effectOf_latch i s
    rw [heff] at hlatch
    exact ⟨_, exec_of_runsInError hrun heff, rfl, hlatch⟩
  | raise c x t =>
    obtain rfl | rfl | rfl := (runsInError_iff i).mp hrun <;> cases heff

/-- Settles O8: the step is `execWord` with the turn used up, which `execWord_of_err` divides into discarding and the three commands
that run. -/
theorem errorStateDiscards : Obligations.ErrorStateDiscards := by
  unfold Obligations.ErrorStateDiscards
  intro s w rest herr hslot hturns
  rw [step_of_err herr hslot hturns]
  rcases execWord_of_err w (s := usedTurn s rest) herr with hdiscard | ⟨i, hword, hrun, hexec⟩
  · rw [hdiscard]
    exact ⟨fun _ _ _ => rfl, _, rfl, rfl, .inl rfl⟩
  · refine ⟨fun hnop hsrst herrclr => ?_, ?_⟩
    · obtain rfl | rfl | rfl := (runsInError_iff i).mp hrun
      · exact absurd hword hnop
      · exact absurd hword hsrst
      · exact absurd hword herrclr
    · rw [hexec]
      exact exec_of_runsInError_latch (usedTurn s rest) hrun

/-! ### The level of irq -/

theorem outAvail_iff (s : State) : outAvail s = true ↔ s.outq ≠ [] := by
  rw [ne_eq, ← outAvail_eq_false_iff, Bool.not_eq_false]

/-- Three bits and a word have a common bit exactly when they have one at 0, 1 or 2. -/
theorem zeroExtend_and_ne_zero_iff (x : BitVec 3) (y : Word) :
    x.zeroExtend 32 &&& y ≠ 0#32 ↔
      (x.getLsbD 0 && y.getLsbD 0) || (x.getLsbD 1 && y.getLsbD 1) || (x.getLsbD 2 && y.getLsbD 2) := by
  have hbit (i : Nat) (hi : i < 32) : (x.zeroExtend 32 &&& y).getLsbD i = (x.getLsbD i && y.getLsbD i) := by
    simp [hi]
  constructor
  · intro hne
    by_contra hnone
    simp only [Bool.or_eq_true, not_or, Bool.not_eq_true] at hnone
    obtain ⟨⟨h0, h1⟩, h2⟩ := hnone
    refine hne (BitVec.eq_of_getLsbD_eq fun i hi => ?_)
    rw [hbit i hi, BitVec.getLsbD_zero]
    match i with
    | 0 => exact h0
    | 1 => exact h1
    | 2 => exact h2
    | i + 3 => rw [BitVec.getLsbD_of_ge x _ (Nat.le_add_left 3 i), Bool.false_and]
  · intro hcommon hzero
    rw [← hbit 0 (by decide), ← hbit 1 (by decide), ← hbit 2 (by decide), hzero] at hcommon
    simp at hcommon

/-- irq is high exactly when INTEN and INTPEND have a common bit (R33, R248). -/
theorem irq_iff_common_bit (s : State) : irq s = true ↔ s.inten.zeroExtend 32 &&& intPend s ≠ 0#32 := by
  obtain ⟨hdone, herr, havail, -⟩ := intPend_fields s
  rw [zeroExtend_and_ne_zero_iff, hdone, herr, havail]
  rfl

/-- Settles O49: irq's three terms, and `irq_iff_common_bit`. -/
theorem irqLevel : Obligations.IrqLevel := by
  unfold Obligations.IrqLevel
  refine fun s => ⟨?_, irq_iff_common_bit s⟩
  simp only [irq, Bool.or_eq_true, Bool.and_eq_true, outAvail_iff, or_assoc]

end Sys2Proof.Machine
end

section
/-! PROOFS. The end of a run (70_reset R273): when a run has ended, what is observed of it, and that the turns of the engine and
of the host leave it ended with the same observation. -/

namespace Sys2Proof.Machine

/-! ### A used turn is not observed -/

/-- A run's observation reads registers, windows, HOSTBUF and responses, none of which is the list of turns (R273, log 1). -/
@[simp] theorem observe_usedTurn (s : State) (rest : List Turn) : observe (usedTurn s rest) = observe s := rfl

/-- Whether a run has ended does not depend on the turns to come (R273, log 1). -/
@[simp] theorem runEnded_usedTurn (leavesBytes : Bool) (s : State) (rest : List Turn) :
    runEnded leavesBytes (usedTurn s rest) = runEnded leavesBytes s := rfl

/-! ### The turns of an ended run -/

/-- With nothing left to issue the host's turn changes nothing (R109, log 2). -/
theorem hostStep_of_script_nil {s : State} (h : s.env.script = []) : hostStep s = s := by
  simp only [hostStep, h]

/-- With no turn named the host moves when the engine has no enabled step (R121, log 1). -/
theorem step_no_turn_of_not_ready {s : State} (hturns : s.env.turns = []) (hwaits : engineReady s = false) :
    step s = .next (hostStep s) := by
  simp only [step, takeTurn, hturns, hwaits, Bool.false_eq_true, if_false]

/-- With no word in SLOT and nothing left to issue, a turn of either agent, or of none, only uses the turn up (logs 1, 2). -/
theorem step_of_idle_agents {s : State} {rest : List Turn} (hscript : s.env.script = []) (hslot : s.slot = none)
    (hturns : s.env.turns = .engine :: rest ∨ s.env.turns = .host :: rest ∨ (s.env.turns = [] ∧ rest = [])) :
    step s = .next (usedTurn s rest) := by
  have hwaits : engineReady s = false := (engineReady_eq_false_iff s).mpr (.inl hslot)
  obtain hengine | hhost | ⟨hnone, rfl⟩ := hturns
  · exact step_engine_turn_of_not_ready hengine hwaits
  · rw [step_host_turn hhost, hostStep_of_script_nil (s := usedTurn s rest) hscript]
  · have hsame : usedTurn s [] = s := by rw [← hnone]; rfl
    rw [step_no_turn_of_not_ready hnone hwaits, hostStep_of_script_nil hscript, hsame]

/-- Settles O60: the end of a run and its observation field by field; after it both agents are idle, and the turn they use up is
not observed. -/
theorem endedRunsStayEnded : Obligations.EndedRunsStayEnded := by
  unfold Obligations.EndedRunsStayEnded
  refine fun leavesBytes s => ⟨runEnded_iff leavesBytes s, fun r => List.mem_map_of_mem (mem_allRegs r), observe_hostbuf s,
    observe_errs s, Iff.rfl, fun rest hended hturns => ?_⟩
  obtain ⟨hscript, hslot, -⟩ := (runEnded_iff leavesBytes s).mp hended
  exact ⟨usedTurn s rest, step_of_idle_agents hscript hslot hturns, rfl, (runEnded_usedTurn leavesBytes s rest).trans hended,
    observe_usedTurn s rest, rfl⟩

end Sys2Proof.Machine
end
